-- ==== Sys2Proof/Word.lean ====
section
/-! DEFINITION. The two word types of PSB (00_scope.md R9: bit 0 is the least significant bit). -/

namespace Sys2Proof

/-- A register, a framebuffer word, a word of host memory: 32 bits. -/
abbrev Word := BitVec 32

/-- A byte of host memory (20_memory.md R67). -/
abbrev Byte := BitVec 8

end Sys2Proof
end

