-- ==== Sys2Proof/Syntax.lean ====
section
/-! DEFINITION. The operations of PSB: one constructor per row of spec/opcode_table.json. No operation has an
operand in its word (30_encoding.md R91, R92): host commands take theirs from P_ARG0..2 (R93). -/

namespace Sys2Proof

/-- The operations of PSB (00_scope.md R2, 30_encoding.md R94 to R96, R103, R104). -/
inductive Instr where
  /-- `NOP`, format H, 0x00 (41_ppe.md R142). -/
  | nop
  /-- `OBM.SET`, format H, 0x01 (40_obm.md R111). -/
  | obmSet
  /-- `OBM.CLR`, format H, 0x02 (R112). -/
  | obmClr
  /-- `OBM.GET`, format H, 0x03 (R110). -/
  | obmGet
  /-- `OBM.CLRALL`, format H, 0x04 (R113). -/
  | obmClrall
  /-- `PPE.LDBG`, format H, 0x10 (41_ppe.md R123). -/
  | ppeLdbg
  /-- `PPE.LDPART`, format H, 0x11 (R124). -/
  | ppeLdpart
  /-- `PPE.CLRALL`, format H, 0x12 (R125). -/
  | ppeClrall
  /-- `PPE.ITER`, format H, 0x13 (R126). -/
  | ppeIter
  /-- `PPE.SNAP`, format H, 0x14 (R139). -/
  | ppeSnap
  /-- `PPE.TICK`, format H, 0x15 (R140). -/
  | ppeTick
  /-- `FSH.SENDRDY`, format H, 0x20 (42_fsh.md R163). -/
  | fshSendrdy
  /-- `FSH.WAITCONS`, format H, 0x21 (R164). -/
  | fshWaitcons
  /-- `C.OFF`, format UC, 0 (43_bpd.md R183). -/
  | cOff
  /-- `C.SETBIT`, format UC, 1 (R184). -/
  | cSetbit
  /-- `C.DMASTART`, format UC, 2 (R185). -/
  | cDmastart
  /-- `C.POLL`, format UC, 3 (R186). -/
  | cPoll
  /-- `C.WAITDMA`, format UC, 4 (R187). -/
  | cWaitdma
  /-- `C.DUMMY2`, format UC, 5 (R188). -/
  | cDummy2
  /-- `C.REDRAW`, format UC, 6 (R189). -/
  | cRedraw
  /-- `C.WAITSTROBE`, format UC, 7 (R195). -/
  | cWaitstrobe
  /-- `C.STROBE`, format UC, 8 (R196). -/
  | cStrobe
  /-- `C.NEXT`, format UC, 9 (R197). -/
  | cNext
  /-- `C.FLIP`, format UC, 10 (R198). -/
  | cFlip
  /-- `C.HALTED`, format UC, 11, and the codes 12..15 that are never produced (R97, 60_exceptions.md R230). -/
  | cHalted
  /-- `P.IDLE`, format UP, 0 (41_ppe.md R120). -/
  | pIdle
  /-- `P.SCALE`, format UP, 1 (R128). -/
  | pScale
  /-- `P.SORT`, format UP, 2 (R129, R130). -/
  | pSort
  /-- `P.ACCEL`, format UP, 3 (R131, R132). -/
  | pAccel
  /-- `P.MOVE`, format UP, 4 (R133 to R137). -/
  | pMove
  /-- `P.EXEC`, format UP, 5 (R120). -/
  | pExec
  /-- `P.WAIT`, format UP, 6 (42_fsh.md R163, R164). -/
  | pWait
  /-- `P.HALTED`, format UP, 7 (60_exceptions.md R230). -/
  | pHalted
  /-- `BPD.SLICE.IDLE`, format UR, 0 (43_bpd.md R191). -/
  | sliceIdle
  /-- `BPD.SLICE.CLEAR`, format UR, 1 (R192). -/
  | sliceClear
  /-- `BPD.SLICE.PARTICLES`, format UR, 2 (R193, R194). -/
  | sliceParticles
  /-- `FSH.POLLRDY`, the sub-operation of `C.POLL`, with no code of its own (42_fsh.md R166). -/
  | fshPollrdy
  /-- `FSH.SENDCONS`, the sub-operation of `C.FLIP`, with no code of its own (R167). -/
  | fshSendcons
  /-- `BPD.SLICE`, the sub-operation of `C.REDRAW`, with no code of its own (43_bpd.md R190). -/
  | bpdSlice
  /-- `TOK_READY`, the one token of channel P2C (30_encoding.md R103). -/
  | tokReady
  /-- `TOK_CONSUMED`, the one token of channel C2P (R103). -/
  | tokConsumed
  deriving DecidableEq, Repr

/-- A word together with the carrier it stands in, which fixes its format (30_encoding.md R90, R103). The same
bits mean different operations on different carriers. -/
inductive Encoded where
  /-- Format H: the word written to `P_CMD`. -/
  | command (word : Word)
  /-- Format UP: `pphase`. -/
  | pphase (code : BitVec 3)
  /-- Format UC: `cphase`. -/
  | cphase (code : BitVec 4)
  /-- Format UR: `rstate`. -/
  | rstate (code : BitVec 2)
  /-- A token word in `p2c_data`. -/
  | p2c (word : Word)
  /-- A token word in `c2p_data`. -/
  | c2p (word : Word)
  deriving DecidableEq, Repr

/-- Why a word on a carrier is no operation. -/
inductive Reject where
  /-- A command word with a bit of 31:8 set (30_encoding.md R97): safe, it raises `F_BADCMD`. -/
  | reservedBits (word : Word)
  /-- A command word whose `OPC` is in no row of R94 (R97): safe, it raises `F_BADCMD`. -/
  | unlistedOpcode (word : Word)
  /-- Code 3 of `rstate` (R104): safe, a slice that meets it raises `F_BADCFG`. -/
  | sliceCode3
  /-- A word that is not the token of its channel (42_fsh.md R172): safe, its receiver raises `F_BADTOKEN`. -/
  | notToken (word : Word)
  deriving DecidableEq, Repr

end Sys2Proof
end

