-- ==== Sys2Proof/Decode.lean ====
section
/-! DEFINITION. The decoder, total on every word of every carrier, and the encoder after it, both from the maps of
30_encoding.md R94 to R96, R103 and R104. -/

namespace Sys2Proof

/-- Format H opcode map (30_encoding.md R94). -/
def commandRows : List (BitVec 8 × Instr) :=
  [(0x00, .nop), (0x01, .obmSet), (0x02, .obmClr), (0x03, .obmGet), (0x04, .obmClrall),
   (0x10, .ppeLdbg), (0x11, .ppeLdpart), (0x12, .ppeClrall), (0x13, .ppeIter), (0x14, .ppeSnap),
   (0x15, .ppeTick), (0x20, .fshSendrdy), (0x21, .fshWaitcons)]

/-- Format UP map (R96). -/
def producerRows : List (BitVec 3 × Instr) :=
  [(0, .pIdle), (1, .pScale), (2, .pSort), (3, .pAccel), (4, .pMove), (5, .pExec), (6, .pWait), (7, .pHalted)]

/-- Format UC map (R95), its codes 0..11. -/
def consumerRows : List (BitVec 4 × Instr) :=
  [(0, .cOff), (1, .cSetbit), (2, .cDmastart), (3, .cPoll), (4, .cWaitdma), (5, .cDummy2), (6, .cRedraw),
   (7, .cWaitstrobe), (8, .cStrobe), (9, .cNext), (10, .cFlip), (11, .cHalted)]

/-- Format UR map (R104), its codes 0..2. -/
def sliceRows : List (BitVec 2 × Instr) :=
  [(0, .sliceIdle), (1, .sliceClear), (2, .sliceParticles)]

/-- The opcode field `OPC` of a command word (R91). -/
def commandOpc (word : Word) : BitVec 8 := word.extractLsb' 0 8

/-- Format H: bits 31:8 must be 0 and `OPC` must be listed (R91, R94, R97). -/
def decodeCommand (word : Word) : Except Reject Instr :=
  if word.extractLsb' 8 24 ≠ 0 then .error (.reservedBits word)
  else
    match commandRows.lookup (commandOpc word) with
    | some i => .ok i
    | none => .error (.unlistedOpcode word)

/-- Format UP: all eight codes are listed (R96); the default is never taken. -/
def decodeProducer (code : BitVec 3) : Instr := (producerRows.lookup code).getD .pHalted

/-- Format UC: the codes 12..15 are decoded as `C.HALTED` (R95, R97). -/
def decodeConsumer (code : BitVec 4) : Instr := (consumerRows.lookup code).getD .cHalted

/-- Format UR: code 3 is rejected (R104). -/
def decodeSlice (code : BitVec 2) : Except Reject Instr :=
  match sliceRows.lookup code with
  | some i => .ok i
  | none => .error .sliceCode3

/-- A token word, by channel: each channel carries one of the two tokens only (R103, 42_fsh.md R172). -/
def decodeToken (toConsumer : Bool) (word : Word) : Except Reject Instr :=
  match toConsumer with
  | true => if word = 0x0000_0001 then .ok .tokReady else .error (.notToken word)
  | false => if word = 0x0000_0002 then .ok .tokConsumed else .error (.notToken word)

/-- The decoder: the carrier fixes the format, the word selects the operation (R90). -/
def decode (e : Encoded) : Except Reject Instr :=
  match e with
  | .command word => decodeCommand word
  | .pphase code => .ok (decodeProducer code)
  | .cphase code => .ok (decodeConsumer code)
  | .rstate code => decodeSlice code
  | .p2c word => decodeToken true word
  | .c2p word => decodeToken false word

/-- The encoder. A sub-operation stands under the code of the micro-operation that performs it. -/
def encode (i : Instr) : Encoded :=
  match i with
  | .nop => .command 0x0000_0000
  | .obmSet => .command 0x0000_0001
  | .obmClr => .command 0x0000_0002
  | .obmGet => .command 0x0000_0003
  | .obmClrall => .command 0x0000_0004
  | .ppeLdbg => .command 0x0000_0010
  | .ppeLdpart => .command 0x0000_0011
  | .ppeClrall => .command 0x0000_0012
  | .ppeIter => .command 0x0000_0013
  | .ppeSnap => .command 0x0000_0014
  | .ppeTick => .command 0x0000_0015
  | .fshSendrdy => .command 0x0000_0020
  | .fshWaitcons => .command 0x0000_0021
  | .cOff => .cphase 0
  | .cSetbit => .cphase 1
  | .cDmastart => .cphase 2
  | .cPoll => .cphase 3
  | .cWaitdma => .cphase 4
  | .cDummy2 => .cphase 5
  | .cRedraw => .cphase 6
  | .cWaitstrobe => .cphase 7
  | .cStrobe => .cphase 8
  | .cNext => .cphase 9
  | .cFlip => .cphase 10
  | .cHalted => .cphase 11
  | .pIdle => .pphase 0
  | .pScale => .pphase 1
  | .pSort => .pphase 2
  | .pAccel => .pphase 3
  | .pMove => .pphase 4
  | .pExec => .pphase 5
  | .pWait => .pphase 6
  | .pHalted => .pphase 7
  | .sliceIdle => .rstate 0
  | .sliceClear => .rstate 1
  | .sliceParticles => .rstate 2
  | .fshPollrdy => .cphase 3
  | .fshSendcons => .cphase 10
  | .bpdSlice => .cphase 6
  | .tokReady => .p2c 0x0000_0001
  | .tokConsumed => .c2p 0x0000_0002

/-- The carrier that the number `w` of `nbits` bits of the opcode table stands on. The table gives no carrier, and
the widths overlap: 2 bits are taken as `rstate`, 3 as `pphase`, up to a byte as `cphase`, more as the command
word; a number that does not fit the field is no code. DESIGN CHOICE, log 12. -/
def tableCarrier (nbits w : Nat) : Option Encoded :=
  if nbits ≤ 2 then (if w < 4 then some (.rstate (BitVec.ofNat 2 w)) else none)
  else if nbits = 3 then (if w < 8 then some (.pphase (BitVec.ofNat 3 w)) else none)
  else if nbits ≤ 8 then (if w < 16 then some (.cphase (BitVec.ofNat 4 w)) else none)
  else (if w < 2 ^ 32 then some (.command (BitVec.ofNat 32 w)) else none)

/-- The operation the decoder reads from a row of the opcode table. -/
def decodeTableWord (nbits w : Nat) : Option Instr :=
  match tableCarrier nbits w with
  | none => none
  | some e =>
    match decode e with
    | .ok i => some i
    | .error _ => none

end Sys2Proof
end

