-- ==== Sys2Proof/Config.lean ====
section
/-! DEFINITION. What is fixed when the block is built, the record types its memories hold, the acts of the
environment, and the free values: opaque constants with no body, of which nothing can be proved. -/

namespace Sys2Proof.Config

/-- `CAPACITY`, the maximum number of active particles (00_scope.md R6). -/
def capacity : Nat := 512

/-- The geometry parameters `W`, `H`, `SIZE` (00_scope.md R6, R7), fixed when the block is built. -/
structure Geometry where
  /-- `W`, field and bitmap width in cells, 1..32. -/
  w : Nat
  /-- `H`, field and bitmap height in cells, 1..32. -/
  h : Nat
  /-- `SIZE`, the side of the LED matrix in pixels, even, 2..32. -/
  size : Nat
  deriving DecidableEq, Repr

/-- The geometry of `State.reset`: the integrated block `W = H = SIZE` (R7) at its largest.
DESIGN CHOICE, unsafe, log 4: the three are OPEN parameters. -/
def builtGeometry : Geometry := ⟨32, 32, 32⟩

/-- One entry of the particle table (10_state.md R31). -/
structure Particle where
  x : BitVec 16
  y : BitVec 16
  vx : BitVec 16
  vy : BitVec 16
  color : Word
  deriving DecidableEq, Repr, Inhabited

/-- One entry of the staging table (10_state.md R33). -/
structure Staged where
  x : BitVec 16
  y : BitVec 16
  color : Word
  deriving DecidableEq, Repr, Inhabited

/-- An event of the panel output trace (43_bpd.md R196). -/
inductive Event where
  /-- `ROWOUT(r, b, line, w)`: scan row, plane, latched 6-bit columns, output-enable width in `cclk` cycles. -/
  | rowOut (row : BitVec 5) (bit : BitVec 3) (line : List (BitVec 6)) (width : Nat)
  /-- `BLANK`: output-enable forced inactive for good (60_exceptions.md R230). -/
  | blank
  deriving DecidableEq, Repr

/-- The size of a host access to a register port (20_memory.md R65). -/
inductive AccessSize where
  | byte
  | half
  | word
  deriving DecidableEq, Repr, Inhabited

/-- One host access to a register port: a byte offset from the port's base, and a value to write. -/
inductive BusAccess where
  | read (size : AccessSize) (offset : Word)
  | write (size : AccessSize) (offset : Word) (value : Word)
  deriving DecidableEq, Repr, Inhabited

/-- One act: which agent of 00_scope.md R11 steps, or what HOST does. -/
inductive Action where
  /-- HOST accesses the P port (10_state.md R23). -/
  | hostP (access : BusAccess)
  /-- HOST accesses the C port (10_state.md R40). -/
  | hostC (access : BusAccess)
  /-- Host memory, which is the environment's, comes to hold a byte (20_memory.md R63). -/
  | hostMem (address : Word) (value : Byte)
  /-- The background source comes to answer a pixel (20_memory.md R64, 70_reset_and_hazards.md R266). -/
  | background (x y : BitVec 5) (value : Word)
  /-- `rst_n` is asserted and released (70_reset_and_hazards.md R250). -/
  | reset
  /-- Agent `P` steps. -/
  | agentP
  /-- Agent `C` steps. -/
  | agentC
  /-- Agent `DMA` steps. -/
  | agentDma
  /-- Agent `SH` steps. -/
  | agentSh
  /-- Agent `RS` steps. -/
  | agentRs
  /-- Agent `SYNC.P` steps (one `pclk` edge). -/
  | syncP
  /-- Agent `SYNC.C` steps (one `cclk` edge). -/
  | syncC
  deriving DecidableEq, Repr, Inhabited

/-- Free value: the answer to the n-th free input (a draw, a choice, an unspecified read) once `env.oracle` is
empty (00_scope.md R10, 10_state.md R55). DESIGN CHOICE of form, safe, log 2. -/
opaque freeNat : Nat → Nat

/-- Free value: the n-th act once `env.sched` is empty; any enabled agent may step at any time (00_scope.md R11).
DESIGN CHOICE of form, safe, log 1. -/
opaque freeAction : Nat → Action

/-- Free value: the word of bitmap row `row` after reset number `epoch`, before an operation wrote the row
(70_reset_and_hazards.md R252). Safe, log 5. -/
opaque powerOnRow (epoch row : Nat) : Word

/-- Free value: entry `k` of the particle table after reset number `epoch` (R252). Safe, log 6. -/
opaque powerOnParticle (epoch k : Nat) : Particle

/-- Free value: entry `k` of the staging table after reset number `epoch` (R252). Safe, log 6. -/
opaque powerOnStaged (epoch k : Nat) : Staged

end Sys2Proof.Config
end

