-- ==== Sys2Proof/Machine/State.lean ====
section
/-! DEFINITION. The state of PSB as plain data, partitioned by owner (10_state.md R20), the reasons a step can
stop, and the state after reset (10_state.md R58, 70_reset_and_hazards.md R250 to R253). -/

namespace Sys2Proof.Machine

open Sys2Proof.Config

/-- A memory of the block: (index, value) pairs in one canonical form (`Store.wf`). -/
abbrev Store (α : Type) := List (Nat × α)

/-- The PPE working registers (10_state.md R22). Exact integers: 41_ppe.md R145 shows that no width wraps. -/
structure PpeWork where
  ax2 : Int
  ay2 : Int
  az2 : Nat
  jmax : Nat
  dx : Int
  dy : Int
  ox : Int
  oy : Int
  nx : Int
  ny : Int
  vx : Int
  vy : Int
  oldidx : Int
  newidx : Int
  delta : Nat
  deriving DecidableEq, Repr

/-- What the producer domain owns (10_state.md R20). -/
structure Producer where
  /-- `P_ARG0` (R21). -/
  arg0 : Word
  /-- `P_ARG1` (R21). -/
  arg1 : Word
  /-- `P_ARG2` (R21). -/
  arg2 : Word
  /-- `P_RESULT` (R21). -/
  result : Word
  /-- `P_STATUS.BUSY` (R24). -/
  busy : Bool
  /-- `P_STATUS.HALT` (R24). -/
  halt : Bool
  /-- `inflight` (R36). -/
  inflight : Bool
  /-- `P_STATUS.WARN_TIMEOUT` (R24). -/
  warnTimeout : Bool
  /-- `P_STATUS.LAST_TIMEOUT` (R24). -/
  lastTimeout : Bool
  /-- `pphase` (R25). -/
  pphase : BitVec 3
  /-- The particle cursor `i` (R25). -/
  i : BitVec 10
  /-- `P_CFG` (R26). -/
  cfg : Word
  /-- `count` (R28). -/
  count : BitVec 10
  /-- `P_TIMEOUT` (R29). -/
  timeout : Word
  /-- `P_FAULT` (R30). -/
  fault : Word
  /-- `P_PARTIDX` (R32). -/
  partIdx : BitVec 10
  /-- `P_DROPCNT` (R34). -/
  dropCnt : Word
  /-- The particle table `part` (R31). -/
  part : Store Particle
  /-- `stg_count` (R33). -/
  stgCount : BitVec 10
  /-- The staging table `stg` (R33). -/
  stg : Store Staged
  /-- The occupancy bitmap `obm`, one word per row (R35). -/
  obm : Store Word
  /-- The PPE working registers (R22). -/
  work : PpeWork
  /-- `OPC` of the command in progress (implied by R24, R96; log 8). -/
  opc : BitVec 8
  /-- `x[0]` as sampled at acceptance (R21; log 8). -/
  x0 : Word
  /-- `x[1]` as sampled at acceptance. -/
  x1 : Word
  /-- `x[2]` as sampled at acceptance. -/
  x2 : Word
  /-- `p2c_req` (R37). -/
  p2cReq : Bool
  /-- `p2c_data` (R37). -/
  p2cData : Word
  /-- `c2p_ack` (R38). -/
  c2pAck : Bool
  /-- `p2c_ack_s1` (R39). -/
  p2cAckS1 : Bool
  /-- `p2c_ack_s2` (R39). -/
  p2cAckS2 : Bool
  /-- `c2p_req_s1` (R39). -/
  c2pReqS1 : Bool
  /-- `c2p_req_s2` (R39). -/
  c2pReqS2 : Bool
  deriving DecidableEq, Repr

/-- What the consumer domain owns (10_state.md R20). -/
structure Consumer where
  /-- `C_CTRL.EN` (R42). -/
  en : Bool
  /-- `C_STATUS.HALT` (R43). -/
  halt : Bool
  /-- `cphase` (R41). -/
  cphase : BitVec 4
  /-- `row` (R41). -/
  row : BitVec 5
  /-- `bit` (R41). -/
  bit : BitVec 3
  /-- `C_CFG` (R44). -/
  cfg : Word
  /-- `C_OEUNIT` (R45). -/
  oeUnit : BitVec 16
  /-- `frame_count` (R46). -/
  frameCount : Word
  /-- `C_FAULT` (R47). -/
  fault : Word
  /-- `rstate` (R48). -/
  rstate : BitVec 2
  /-- `row_cursor` (R48). -/
  rowCursor : BitVec 6
  /-- `part_cursor` (R48). -/
  partCursor : BitVec 10
  /-- `fb[0]` (R49). -/
  fb0 : Store Word
  /-- `fb[1]` (R49). -/
  fb1 : Store Word
  /-- `front` (R49): `false` selects `fb[0]`. -/
  front : Bool
  /-- `redraw_pending` (R50). -/
  redrawPending : Bool
  /-- `flip_pending` (R50). -/
  flipPending : Bool
  /-- `dma_busy` (R51). -/
  dmaBusy : Bool
  /-- `dma_idx` (R51). -/
  dmaIdx : BitVec 11
  /-- `dma_rem` (R51). -/
  dmaRem : BitVec 7
  /-- `sh_bit` (R52). -/
  shBit : BitVec 3
  /-- `sh_fifo`, oldest word first (R52). -/
  shFifo : List Word
  /-- `sh_line`, in order of shifting (R52). -/
  shLine : List (BitVec 6)
  /-- `sh_hold` (R52). -/
  shHold : Option Word
  /-- `sh_count` (R52). -/
  shCount : BitVec 7
  /-- `rs_busy` (R53). -/
  rsBusy : Bool
  /-- `rs_row` (R53). -/
  rsRow : BitVec 5
  /-- `rs_bit` (R53). -/
  rsBit : BitVec 3
  /-- `rs_width` (R53), in `cclk` cycles. -/
  rsWidth : Nat
  /-- The panel output trace, oldest event first (R54). -/
  trace : List Event
  /-- `c2p_req` (R38). -/
  c2pReq : Bool
  /-- `c2p_data` (R38). -/
  c2pData : Word
  /-- `p2c_ack` (R37). -/
  p2cAck : Bool
  /-- `p2c_req_s1` (R39). -/
  p2cReqS1 : Bool
  /-- `p2c_req_s2` (R39). -/
  p2cReqS2 : Bool
  /-- `c2p_ack_s1` (R39). -/
  c2pAckS1 : Bool
  /-- `c2p_ack_s2` (R39). -/
  c2pAckS2 : Bool
  deriving DecidableEq, Repr

/-- The environment's part (agent HOST, 00_scope.md R11): the model's own fields, not the block's state. -/
structure Env where
  /-- The acts to come, the next first; when the list is empty the next act is free (log 1). -/
  sched : List Action
  /-- The free answers to come; when the list is empty the next answer is free (log 2). -/
  oracle : List Nat
  /-- Counts the free values taken from `Config.freeNat` and `Config.freeAction`. -/
  fresh : Nat
  /-- Counts resets: selects the power-on contents (log 5). -/
  epoch : Nat
  /-- The bytes host memory is known to hold (20_memory.md R63, R67; log 9). -/
  hostMem : List Host.Cell
  /-- The pixels the background source is known to answer, pixel `(x, y)` at index `32·y + x` (R64; log 10). -/
  background : Store Word
  /-- The word the last read of the P port returned (R65; log 21). -/
  pRdata : Word
  /-- The word the last read of the C port returned (R65; log 21). -/
  cRdata : Word
  deriving DecidableEq, Repr

/-- The whole machine: the build parameters, the two domains, the environment. -/
structure State where
  /-- `W`, `H`, `SIZE` (00_scope.md R6, 10_state.md R27). No step writes it. -/
  geom : Geometry
  /-- The producer domain. -/
  p : Producer
  /-- The consumer domain. -/
  c : Consumer
  /-- The environment. -/
  env : Env
  deriving DecidableEq, Repr

/-- Why a step of the model stops. PSB's own fatal faults are not these: they are next states
(60_exceptions.md R230). None of these is reached from reset. -/
inductive Fault where
  /-- Raised by agent `DMA` and by the slices of BPD on a framebuffer word that 20_memory.md R61 says does not
  exist. Safe: such an index is outside the address space (log 14). -/
  | framebufferIndex (k : Nat)
  /-- Raised by the engine and by `PPE.SNAP` on a particle entry at or above 512 (R62). Safe (log 14). -/
  | particleIndex (k : Nat)
  /-- Raised by the PARTICLES slice on a staging entry at or above 512 (R62). Safe (log 14). -/
  | stagingIndex (k : Nat)
  /-- Raised by agent `SH` when a lower pixel arrives and `sh_hold` is none, which 43_bpd.md R200 excludes.
  Safe: no column value is made up (log 15). -/
  | missingPairHalf
  deriving DecidableEq, Repr

/-- Why an operation is given no meaning. -/
inductive Refusal where
  /-- Raised by `exec` for an operation that is not modelled; none is left. Safe. -/
  | notModelled (mnemonic : String)
  deriving DecidableEq, Repr

/-- The working registers after reset: no value is given and no rule reads them (10_state.md R22). DESIGN CHOICE,
unsafe, log 7. -/
def PpeWork.reset : PpeWork := ⟨0, 0, 0, 0, 0, 0, 0, 0, 0, 0, 0, 0, 0, 0, 0⟩

/-- The producer domain after reset (10_state.md R58). The tables are empty lists: their contents are free. -/
def Producer.reset : Producer where
  arg0 := 0
  arg1 := 0
  arg2 := 0
  result := 0
  busy := false
  halt := false
  inflight := false
  warnTimeout := false
  lastTimeout := false
  pphase := 0
  i := 0
  cfg := 0x0000_8040
  count := 0
  timeout := 0xFFFF_FFFF
  fault := 0
  partIdx := 0
  dropCnt := 0
  part := []
  stgCount := 0
  stg := []
  obm := []
  work := PpeWork.reset
  opc := 0
  x0 := 0
  x1 := 0
  x2 := 0
  p2cReq := false
  p2cData := 0
  c2pAck := false
  p2cAckS1 := false
  p2cAckS2 := false
  c2pReqS1 := false
  c2pReqS2 := false

/-- The consumer domain after reset (10_state.md R58). Both framebuffers are all zero (R253). -/
def Consumer.reset : Consumer where
  en := false
  halt := false
  cphase := 0
  row := 0
  bit := 0
  cfg := 0x01FF_0078
  oeUnit := 1
  frameCount := 0
  fault := 0
  rstate := 0
  rowCursor := 0
  partCursor := 0
  fb0 := []
  fb1 := []
  front := false
  redrawPending := false
  flipPending := false
  dmaBusy := false
  dmaIdx := 0
  dmaRem := 0
  shBit := 0
  shFifo := []
  shLine := []
  shHold := none
  shCount := 0
  rsBusy := false
  rsRow := 0
  rsBit := 0
  rsWidth := 0
  trace := []
  c2pReq := false
  c2pData := 0
  p2cAck := false
  p2cReqS1 := false
  p2cReqS2 := false
  c2pAckS1 := false
  c2pAckS2 := false

/-- The environment when nothing is known of it (DESIGN CHOICE, log 1, 2, 9, 10, 21). -/
def Env.reset : Env where
  sched := []
  oracle := []
  fresh := 0
  epoch := 0
  hostMem := []
  background := []
  pRdata := 0
  cRdata := 0

/-- A block built with geometry `g`, right after reset. -/
def State.resetWith (g : Geometry) : State := ⟨g, Producer.reset, Consumer.reset, Env.reset⟩

/-- The machine right after reset (70_reset_and_hazards.md R251), built with the geometry of log 4. -/
def State.reset : State := State.resetWith Config.builtGeometry

end Sys2Proof.Machine
end

