-- ==== Sys2Proof/Machine/Ops.lean ====
section
/-! DEFINITION. The operations every meaning is built from: memories, free inputs, the geometry's derived constants,
the outcome of an operation, fault entry, the frame of a host command, and the access primitives of each memory
(00_scope.md R10). -/

namespace Sys2Proof.Machine

open Sys2Proof.Config

/-! ## Memories as lists -/

/-- The value listed at an index, `none` where the index is not listed. -/
def Store.find {α : Type} (k : Nat) : Store α → Option α
  | [] => none
  | (k', v) :: t => if k = k' then some v else Store.find k t

/-- Insert or replace the entry at an index, keeping the indices rising. -/
def Store.put {α : Type} (k : Nat) (v : α) : Store α → Store α
  | [] => [(k, v)]
  | (k', v') :: t =>
    if k < k' then (k, v) :: (k', v') :: t
    else if k = k' then (k, v) :: t
    else (k', v') :: Store.put k v t

/-- Remove the entry at an index. -/
def Store.drop {α : Type} (k : Nat) : Store α → Store α
  | [] => []
  | (k', v') :: t => if k = k' then Store.drop k t else (k', v') :: Store.drop k t

/-- A write: `unlisted` is what an unlisted index reads as (`none` where it holds no known value); writing that
value removes the entry. -/
def Store.write {α : Type} [DecidableEq α] (unlisted : Option α) (k : Nat) (v : α) (t : Store α) : Store α :=
  if unlisted = some v then Store.drop k t else Store.put k v t

/-- Every index of the list is above `lo`. -/
def Store.above {α : Type} (lo : Nat) (t : Store α) : Bool := t.all (fun e => lo < e.1)

/-- The canonical form: indices strictly rising, no entry equal to what an unlisted index reads as. -/
def Store.wf {α : Type} [DecidableEq α] (unlisted : Option α) : Store α → Bool
  | [] => true
  | (k, v) :: t => Store.above k t && decide (unlisted ≠ some v) && Store.wf unlisted t

/-- Every memory is in its canonical form. A framebuffer word that is not listed reads 0 (R253); in the other
memories an index that is not listed holds no known value. -/
def Memory.wf (s : State) : Bool :=
  Store.wf none s.p.part && Store.wf none s.p.stg && Store.wf none s.p.obm
    && Store.wf (some (0 : Word)) s.c.fb0 && Store.wf (some (0 : Word)) s.c.fb1
    && Store.wf none s.env.hostMem && Store.wf none s.env.background

/-! ## Derived constants (00_scope.md R7, R8) -/

/-- `SCAN = SIZE/2` (R7). -/
def scan (s : State) : Nat := s.geom.size / 2

/-- `XMAX = W·256 − 1` (R8). -/
def xmax (s : State) : Int := (s.geom.w : Int) * 256 - 1

/-- `YMAX = H·256 − 1` (R8, 90_conflicts.md C7). -/
def ymax (s : State) : Int := (s.geom.h : Int) * 256 - 1

/-- `FBWORDS = SIZE·SIZE` (R8). -/
def fbWords (s : State) : Nat := s.geom.size * s.geom.size

/-- `ROWWORDS = 2·SIZE` (R8). -/
def rowWords (s : State) : Nat := 2 * s.geom.size

/-! ## Free inputs (00_scope.md R10, 10_state.md R55) -/

/-- The next free answer: the head of `env.oracle`, else a free value of its own (log 2). -/
def popNat (s : State) : Nat × State :=
  match s.env.oracle with
  | n :: rest => (n, { s with env.oracle := rest })
  | [] => (Config.freeNat s.env.fresh, { s with env.fresh := s.env.fresh + 1 })

/-- `draw(0, hi)`: any integer in `[0, hi]` (R10, 41_ppe.md R127). -/
def draw (hi : Nat) (s : State) : Nat × State := ((popNat s).1 % (hi + 1), (popNat s).2)

/-- A free choice between two branches. -/
def choose (s : State) : Bool × State := ((popNat s).1 % 2 == 1, (popNat s).2)

/-- A free word: the unspecified value of a read. -/
def freeWord (s : State) : Word × State := (BitVec.ofNat 32 (popNat s).1, (popNat s).2)

/-! ## The outcome of an operation -/

/-- What an operation comes to. -/
inductive Result where
  /-- Every line of the pseudocode was performed. -/
  | ok (s : State)
  /-- The operation is in a wait, or goes on in later steps: the command stays in progress. -/
  | pending (s : State)
  /-- A fatal fault was raised: fault entry was performed, and no line after it (41_ppe.md R120, 60_exceptions.md R235). -/
  | raised (s : State)
  /-- The model stops: an access to an entry that does not exist (log 14, log 15). -/
  | stop (f : Fault)
  deriving DecidableEq, Repr

/-- Sequencing: the rest runs only after an operation that went to its end. -/
def Result.andThen (r : Result) (rest : State → Result) : Result :=
  match r with
  | .ok s => rest s
  | .pending s => .pending s
  | .raised s => .raised s
  | .stop f => .stop f

/-- The outcome of a step that performed an operation, `done` being what is left to do at its end. -/
def Result.outcome (r : Result) (done : State → State) : Host.Outcome State Fault Refusal :=
  match r with
  | .ok s => .next (done s)
  | .pending s => .next s
  | .raised s => .next s
  | .stop f => .fault f

/-- Perform one operation for each index of a list, in order, up to the first that does not go to its end. -/
def runEach (op : Nat → State → Result) : List Nat → State → Result
  | [], s => .ok s
  | k :: ks, s => (op k s).andThen (runEach op ks)

/-! ## Fatal faults: taking one (60_exceptions.md R230); there is no return but reset (R237) -/

/-- `F_CAPACITY` (R221). -/
def fCapacity : BitVec 8 := 1
/-- `F_DESYNC` (R221). -/
def fDesync : BitVec 8 := 2
/-- `F_RANGE` (R221). -/
def fRange : BitVec 8 := 4
/-- `F_BADCMD` (R221). -/
def fBadcmd : BitVec 8 := 5
/-- `F_OVERRUN` (R221). -/
def fOverrun : BitVec 8 := 6
/-- `F_GATE` (R221). -/
def fGate : BitVec 8 := 7
/-- `F_ALIGN` (R221). -/
def fAlign : BitVec 8 := 8
/-- `F_BADTOKEN` (R221). -/
def fBadtoken : BitVec 8 := 9
/-- `F_BADCFG` (R221). -/
def fBadcfg : BitVec 8 := 10

/-- `info[23:0]` of a word. -/
def info24 (w : Word) : BitVec 24 := w.extractLsb' 0 24

/-- The fault register's word `{info[23:0], code[7:0]}` (R221). -/
def faultWord (code : BitVec 8) (info : BitVec 24) : Word := info ++ code

/-- `raise Fatal(code, info)` in the producer domain (R230): the fault is recorded, `HALT` is set, `BUSY` is
cleared and the sequencer is at `P.HALTED`; `p_fatal_o` follows `HALT` (R236). -/
def raiseP (code : BitVec 8) (info : BitVec 24) (s : State) : State :=
  { s with p.fault := faultWord code info, p.halt := true, p.busy := false, p.pphase := 7 }

/-- `raise Fatal(code, info)` in the consumer domain (R230): the fault is recorded, `HALT` is set, the sequencer is
at `C.HALTED` and `BLANK` is emitted; `c_fatal_o` follows `HALT` (R236). -/
def raiseC (code : BitVec 8) (info : BitVec 24) (s : State) : State :=
  { s with c.fault := faultWord code info, c.halt := true, c.cphase := 11, c.trace := s.c.trace ++ [Event.blank] }

/-! ## The frame of a host command (30_encoding.md R98, 41_ppe.md R120) -/

/-- Acceptance: the operands are sampled, `BUSY` is set, the command is latched and `pphase` is `P.EXEC`. -/
def accept (opc : BitVec 8) (s : State) : State :=
  { s with
    p.busy := true, p.opc := opc, p.pphase := 5, p.i := 0,
    p.x0 := s.p.arg0, p.x1 := s.p.arg1, p.x2 := s.p.arg2 }

/-- Completion: `pphase <- P.IDLE`, `BUSY <- 0`. -/
def complete (s : State) : State := { s with p.busy := false, p.pphase := 0, p.i := 0 }

/-- A write of the command word `opc` to `P_CMD`: ignored while halted, `F_OVERRUN` while busy, else the command is
accepted, performed and completed (R98, 60_exceptions.md R228, R234). -/
def command (opc : BitVec 8) (body : State → Result) (s : State) : Host.Outcome State Fault Refusal :=
  if s.p.halt then .next s
  else if s.p.busy then .next (raiseP fOverrun (opc.zeroExtend 24) s)
  else (body (accept opc s)).outcome complete

/-- A write of an illegal word to `P_CMD` (R97, R98, R227, R228, R234). -/
def illegalCommand (word : Word) (s : State) : State :=
  if s.p.halt then s
  else if s.p.busy then raiseP fOverrun (info24 word) s
  else raiseP fBadcmd (info24 word) s

/-- A step of agent `P` in its sequencer: none while the domain is halted (60_exceptions.md R230). -/
def producerStep (f : State → Host.Outcome State Fault Refusal) (s : State) : Host.Outcome State Fault Refusal :=
  if s.p.halt then .next s else f s

/-- A step of agent `C`: none while the domain is halted (60_exceptions.md R230). -/
def consumerStep (f : State → Host.Outcome State Fault Refusal) (s : State) : Host.Outcome State Fault Refusal :=
  if s.c.halt then .next s else f s

/-- The single-frame-in-flight gate (42_fsh.md R168): `F_GATE` with the opcode while a frame is in flight. -/
def gated (opc : BitVec 8) (body : State → Result) (s : State) : Result :=
  if s.p.inflight then .raised (raiseP fGate (opc.zeroExtend 24) s) else body s

/-! ## The occupancy bitmap (40_obm.md) -/

/-- The cell is in the field: unsigned comparison of the full operand (R114). -/
def inField (s : State) (cx cy : Nat) : Bool := decide (cx < s.geom.w) && decide (cy < s.geom.h)

/-- The `INFO` of `F_RANGE`: `{cy[11:0], cx[11:0]}` (R114). -/
def rangeInfo (cx cy : Nat) : BitVec 24 := BitVec.ofNat 12 cy ++ BitVec.ofNat 12 cx

/-- Row word `obm[y]`. A row no operation has written holds unspecified bits, the bits `W..31` among them
(70_reset_and_hazards.md R252; log 5). -/
def obmRow (s : State) (y : Nat) : Word := (Store.find y s.p.obm).getD (Config.powerOnRow s.env.epoch y)

/-- The bit of cell `(x, y)`. -/
def obmBit (s : State) (x y : Nat) : Bool := (obmRow s y).getLsbD x

/-- The row word with one bit written. -/
def withBit (row : Word) (x : Nat) (b : Bool) : Word :=
  if b then row ||| BitVec.ofNat 32 (2 ^ x) else row &&& ~~~(BitVec.ofNat 32 (2 ^ x))

/-- Store a bitmap row. -/
def setObmRow (y : Nat) (row : Word) (s : State) : State := { s with p.obm := Store.write none y row s.p.obm }

/-- `ObmGet(cx, cy)` (R110, R114): the bit goes to the rest of the operation. -/
def obmGet (cx cy : Nat) (rest : Bool → Result) (s : State) : Result :=
  if inField s cx cy then rest (obmBit s cx cy) else .raised (raiseP fRange (rangeInfo cx cy) s)

/-- `ObmSet(cx, cy)` for `b = true` (R111), `ObmClr(cx, cy)` for `b = false` (R112), with the check of R114. -/
def obmPut (b : Bool) (cx cy : Nat) (s : State) : Result :=
  if inField s cx cy then .ok (setObmRow cy (withBit (obmRow s cy) cx b) s)
  else .raised (raiseP fRange (rangeInfo cx cy) s)

/-- `clearAll()`: `for y in 0..H−1: obm[y] <- 0` (R113). -/
def obmClearAll (s : State) : State := (List.range s.geom.h).foldl (fun t y => setObmRow y 0 t) s

/-! ## The particle and staging tables (20_memory.md R62) -/

/-- `part[k]`; an entry no load has written holds unspecified contents (70_reset_and_hazards.md R252). -/
def readPart (s : State) (k : Nat) : Particle :=
  (Store.find k s.p.part).getD (Config.powerOnParticle s.env.epoch k)

/-- `part[k] <- q`, a whole entry at once. -/
def writePart (k : Nat) (q : Particle) (s : State) : State :=
  { s with p.part := Store.write none k q s.p.part }

/-- `StgRead(k)`; an entry no snapshot has written holds unspecified contents (R252). -/
def stgRead (s : State) (k : Nat) : Staged :=
  (Store.find k s.p.stg).getD (Config.powerOnStaged s.env.epoch k)

/-- `StgWrite(k, e)`. -/
def stgWrite (k : Nat) (e : Staged) (s : State) : State :=
  { s with p.stg := Store.write none k e s.p.stg }

/-! ## The framebuffers (20_memory.md R61, 43_bpd.md R180) -/

/-- `FbRead(b, k)`: a word that is not listed is 0 (70_reset_and_hazards.md R253). -/
def fbRead (s : State) (b : Bool) (k : Nat) : Word :=
  (Store.find k (if b then s.c.fb1 else s.c.fb0)).getD 0

/-- `FbWrite(b, k, v)`. -/
def fbWrite (b : Bool) (k : Nat) (v : Word) (s : State) : State :=
  if b then { s with c.fb1 := Store.write (some 0) k v s.c.fb1 }
  else { s with c.fb0 := Store.write (some 0) k v s.c.fb0 }

/-- `pixaddr(x, y)` (43_bpd.md R180). -/
def pixaddr (s : State) (x y : Nat) : Nat :=
  if y < scan s then y * s.geom.size * 2 + 2 * x else (y - scan s) * s.geom.size * 2 + 2 * x + 1

/-! ## The external read ports (20_memory.md R63, R64) -/

/-- The byte host memory answers at an address: the known one, else a free one (log 9). -/
def hostByte (addr : Word) (s : State) : Byte × State :=
  match Store.find addr.toNat s.env.hostMem with
  | some b => (b, s)
  | none => (BitVec.ofNat 8 (popNat s).1, (popNat s).2)

/-- `MemRead(addr, 4)`, little-endian (R67). -/
def memRead (addr : Word) (s : State) : Word × State :=
  let b0 := hostByte addr s
  let b1 := hostByte (addr + 1) b0.2
  let b2 := hostByte (addr + 2) b1.2
  let b3 := hostByte (addr + 3) b2.2
  (b3.1 ++ b2.1 ++ b1.1 ++ b0.1, b3.2)

/-- `BgRead(x, y)`: the known pixel, else a free one (R64; log 10). -/
def bgRead (x y : Nat) (s : State) : Word × State :=
  match Store.find (32 * y + x) s.env.background with
  | some v => (v, s)
  | none => freeWord s

/-! ## The channels (42_fsh.md R161, R103) -/

/-- `TOK_READY` (30_encoding.md R103). -/
def tokReadyWord : Word := 0x0000_0001

/-- `TOK_CONSUMED` (R103). -/
def tokConsumedWord : Word := 0x0000_0002

/-- `p2c_full_seen`: the producer sees P2C still full (R161). -/
def p2cFullSeen (s : State) : Bool := s.p.p2cReq != s.p.p2cAckS2

/-- `p2c_avail`: the consumer sees a token in P2C (R161). -/
def p2cAvail (s : State) : Bool := s.c.p2cReqS2 != s.c.p2cAck

/-- `c2p_full_seen`: the consumer sees C2P still full (R161). -/
def c2pFullSeen (s : State) : Bool := s.c.c2pReq != s.c.c2pAckS2

/-- `c2p_avail`: the producer sees a token in C2P (R161). -/
def c2pAvail (s : State) : Bool := s.p.c2pReqS2 != s.p.c2pAck

/-- Send "ready": the data word, then the request toggle, then `inflight`, in one step (R163, 20_memory.md R77). -/
def sendReady (s : State) : State :=
  { s with p.p2cData := tokReadyWord, p.p2cReq := !s.p.p2cReq, p.inflight := true }

/-- The producer takes the word `t` from C2P: the slot is emptied, then the word is checked (R164 (a), R172). -/
def takeConsumed (t : Word) (s : State) : Result :=
  let emptied := { s with p.c2pAck := !s.p.c2pAck }
  match decodeToken false t with
  | .ok _ => .ok { emptied with p.inflight := false, p.lastTimeout := false }
  | .error _ => .raised (raiseP fBadtoken (info24 t) emptied)

/-- Branch (b) of the wait: the warning `W_TIMEOUT` (R164, 60_exceptions.md R226). -/
def timeoutWarning (s : State) : State :=
  { s with p.lastTimeout := true, p.warnTimeout := true, p.dropCnt := s.p.dropCnt + 1 }

/-- The consumer takes the word `t` from P2C: the slot is emptied, then the word is checked (R166, R172). -/
def takeReady (t : Word) (s : State) : Result :=
  let emptied := { s with c.p2cAck := !s.c.p2cAck }
  match decodeToken true t with
  | .ok _ => .ok emptied
  | .error _ => .raised (raiseC fBadtoken (info24 t) emptied)

/-- `FSH.SENDCONS` (R167): `F_DESYNC` if the outbound slot is seen full, else send "consumed". -/
def sendConsumed (s : State) : Result :=
  if c2pFullSeen s then .raised (raiseC fDesync (info24 s.c.frameCount) s)
  else .ok { s with c.c2pData := tokConsumedWord, c.c2pReq := !s.c.c2pReq }

end Sys2Proof.Machine
end

