-- ==== Sys2Proof/Machine/Operands.lean ====
section
/-! DEFINITION. Operand assembly (30_encoding.md R93): how the sampled operand registers and the configuration fields
are read. -/

namespace Sys2Proof.Machine

/-- Cell coordinate `cx = x[0]`, the full word, unsigned (R93). -/
def opCx (s : State) : Nat := s.p.x0.toNat

/-- Cell coordinate `cy = x[1]`, the full word, unsigned (R93). -/
def opCy (s : State) : Nat := s.p.x1.toNat

/-- Table base `x[0]`, a byte address (R93). -/
def opBase (s : State) : Word := s.p.x0

/-- Count `n = x[1]`, the full word, unsigned (R93). -/
def opCount (s : State) : Nat := s.p.x1.toNat

/-- `sext_16(x[15:0])` (R10, R93): bits 31:16 are ignored. -/
def sext16 (x : Word) : Int := (x.extractLsb' 0 16).toInt

/-- Tilt `ax` (R93). -/
def opAx (s : State) : Int := sext16 s.p.x0

/-- Tilt `ay` (R93). -/
def opAy (s : State) : Int := sext16 s.p.x1

/-- Tilt `az` (R93). -/
def opAz (s : State) : Int := sext16 s.p.x2

/-- `base[1:0] = 0` (20_memory.md R68). -/
def aligned (base : Word) : Bool := base.extractLsb' 0 2 == 0

/-! ## `P_CFG` (10_state.md R26) -/

/-- `SCALE` = bits 7:0. -/
def cfgScale (s : State) : Nat := (s.p.cfg.extractLsb' 0 8).toNat

/-- `ELASTICITY` = bits 15:8. -/
def cfgElasticity (s : State) : Nat := (s.p.cfg.extractLsb' 8 8).toNat

/-- `SORT_EN` = bit 16. -/
def cfgSortEn (s : State) : Bool := s.p.cfg.getLsbD 16

/-- The bits of `P_CFG` that exist: 31:17 are reserved. -/
def pCfgMask : Word := 0x0001_FFFF

/-! ## `C_CFG`, `C_OEUNIT`, `P_TIMEOUT` (10_state.md R44, R45, R29) -/

/-- `BITDEPTH` = bits 3:0. -/
def cfgBitDepth (s : State) : Nat := (s.c.cfg.extractLsb' 0 4).toNat

/-- `REDRAW_MIN_BIT` = bits 6:4. -/
def cfgRedrawMinBit (s : State) : Nat := (s.c.cfg.extractLsb' 4 3).toNat

/-- `CHUNK_M1` = bits 25:16. -/
def cfgChunkM1 (s : State) : Nat := (s.c.cfg.extractLsb' 16 10).toNat

/-- `PARTICLE_CHUNK = CHUNK_M1 + 1`. -/
def cfgChunk (s : State) : Nat := cfgChunkM1 s + 1

/-- The bits of `C_CFG` that exist: 15:7 and 31:26 are reserved. -/
def cCfgMask : Word := 0x03FF_007F

/-- `BITLO = 8 − BITDEPTH` (00_scope.md R8), as the value of the `bit` field. -/
def bitLo (s : State) : BitVec 3 := BitVec.ofNat 3 (8 - cfgBitDepth s)

/-- The fields of `C_CFG` are legal (43_bpd.md R183, 60_exceptions.md R229). -/
def cfgLegal (s : State) : Bool :=
  decide (1 ≤ cfgBitDepth s ∧ cfgBitDepth s ≤ 8 ∧ 8 - cfgBitDepth s ≤ cfgRedrawMinBit s ∧ cfgChunkM1 s ≤ 511)

/-- `max(OE_UNIT, 1)` (R45, 43_bpd.md R196). -/
def oeUnit (s : State) : Nat := max s.c.oeUnit.toNat 1

/-- `max(SYNC_TIMEOUT, 1)`, the bound of the wait in `pclk` cycles (R29, 42_fsh.md R165). -/
def syncTimeout (s : State) : Nat := max s.p.timeout.toNat 1

end Sys2Proof.Machine
end

