-- ==== Sys2Proof/Machine/Bpd.lean ====
section
/-! DEFINITION. The consumer micro-operations (43_bpd.md R182 to R198), the redraw slices (R190 to R194) and the
consumer half of the handshake (42_fsh.md R166, R167). Each is one atomic step of agent `C`. -/

namespace Sys2Proof.Machine

open Sys2Proof.Config

/-- The sequencer goes to the micro-operation of a code. -/
def toPhase (code : BitVec 4) (s : State) : State := { s with c.cphase := code }

/-! ## The redraw slices -/

/-- The IDLE slice (R191): the redraw leaves IDLE, both cursors at 0, nothing drawn. -/
def sliceIdleBody (s : State) : Result := .ok { s with c.rstate := 1, c.rowCursor := 0, c.partCursor := 0 }

/-- One pixel of a CLEAR slice: `FbWrite(1 − front, pixaddr(x, y), BgRead(x, y))` (R192). -/
def clearPixel (y x : Nat) (s : State) : State :=
  let r := bgRead x y s
  fbWrite (!r.2.c.front) (pixaddr r.2 x y) r.1 r.2

/-- The CLEAR slice (R192): one logical row, `x` ascending; the cursor advances, and at the bottom the state is
PARTICLES. A row at or below the bottom has no words (20_memory.md R61; log 14). -/
def sliceClearBody (s : State) : Result :=
  if s.c.rowCursor.toNat < s.geom.size then
    let t := (List.range s.geom.size).foldl (fun t x => clearPixel s.c.rowCursor.toNat x t) s
    .ok { t with
      c.rowCursor := s.c.rowCursor + 1
      c.rstate := if s.c.rowCursor.toNat + 1 = s.geom.size then 2 else t.c.rstate }
  else .stop (.framebufferIndex (pixaddr s 0 s.c.rowCursor.toNat))

/-- One staged particle of a PARTICLES slice (R193): its whole colour word, at its cell; outside the matrix it raises
`F_RANGE` in the consumer domain (60_exceptions.md R225 (3)). -/
def drawStaged (k : Nat) (s : State) : Result :=
  if k < capacity then
    let e := stgRead s k
    let px := e.x.toNat / 256
    let py := e.y.toNat / 256
    if px ≥ s.geom.size ∨ py ≥ s.geom.size then .raised (raiseC fRange (rangeInfo px py) s)
    else .ok (fbWrite (!s.c.front) (pixaddr s px py) e.color s)
  else .stop (.stagingIndex k)

/-- `n = min(PARTICLE_CHUNK, stg_count − part_cursor)`, an exact integer (00_scope.md R9; log 27). -/
def chunkLength (s : State) : Int := min (cfgChunk s : Int) ((s.p.stgCount.toNat : Int) - (s.c.partCursor.toNat : Int))

/-- Completion of the redraw (R194). -/
def redrawComplete (s : State) : State :=
  { s with c.rstate := 0, c.redrawPending := false, c.flipPending := true }

/-- The PARTICLES slice (R193): one chunk of staged particles, ascending; then the redraw may be complete. -/
def sliceParticlesBody (s : State) : Result :=
  let n := chunkLength s
  let cursor := ((s.c.partCursor.toNat : Int) + n).toNat
  (runEach drawStaged ((List.range n.toNat).map (fun j => s.c.partCursor.toNat + j)) s).andThen fun t =>
    let u := { t with c.partCursor := BitVec.ofNat 10 cursor }
    .ok (if cursor = t.p.stgCount.toNat then redrawComplete u else u)

/-- `BPD.SLICE` (R190): the code of `rstate` selects the body; the impossible code 3 is `F_BADCFG`
(30_encoding.md R104, 60_exceptions.md R229). -/
def sliceBody (s : State) : Result :=
  match decodeSlice s.c.rstate with
  | .ok .sliceClear => sliceClearBody s
  | .ok .sliceParticles => sliceParticlesBody s
  | .ok _ => sliceIdleBody s
  | .error _ => .raised (raiseC fBadcfg (info24 s.c.cfg) s)

/-! ## The consumer half of the handshake -/

/-- `FSH.POLLRDY` (42_fsh.md R166): the answer goes to the rest of the micro-operation. -/
def pollReady (rest : Bool → State → Result) (s : State) : Result :=
  if p2cAvail s then (takeReady s.p.p2cData s).andThen (rest true) else rest false s

/-- The frame boundary with a flip pending: swap, count, send "consumed", clear the flag, in that order (R198,
42_fsh.md R167). -/
def flipBody (s : State) : Result :=
  (sendConsumed { s with c.front := !s.c.front, c.frameCount := s.c.frameCount + 1 }).andThen fun t =>
    .ok { t with c.flipPending := false }

/-- A redraw slice is allowed in this slot: a higher-order bit, and a redraw pending (R189). -/
def redrawEligible (s : State) : Bool := decide (cfgRedrawMinBit s ≤ s.c.bit.toNat) && s.c.redrawPending

/-- The conditions of `C.WAITSTROBE` (R195). -/
def strobeReady (s : State) : Bool :=
  !s.c.rsBusy && s.c.shFifo.isEmpty && s.c.shCount.toNat == rowWords s + 2

/-- The pulse width `max(OE_UNIT, 1)·2^bit` (R196). -/
def pulseWidth (s : State) : Nat := oeUnit s * 2 ^ s.c.bit.toNat

/-- `C_CTRL.EN` written 1 (R183): `F_BADCFG` on an illegal configuration, else the sequencer starts. -/
def enableBpd (s : State) : State :=
  if cfgLegal s then { s with c.en := true, c.row := 0, c.bit := bitLo s, c.cphase := 1 }
  else raiseC fBadcfg (info24 s.c.cfg) s

/-! ## The meanings -/

/-- `C.OFF` (R183): agent `C` has no step; the host's write of `C_CTRL` starts it (`enableBpd`). -/
def execCOff (s : State) : Host.Outcome State Fault Refusal := consumerStep (fun s => .next s) s

/-- `C.SETBIT` (R184). -/
def execCSetbit (s : State) : Host.Outcome State Fault Refusal :=
  consumerStep (fun s => .next (toPhase 2 { s with c.shBit := s.c.bit, c.shCount := 0 })) s

/-- `C.DMASTART` (R185). -/
def execCDmastart (s : State) : Host.Outcome State Fault Refusal :=
  consumerStep (fun s =>
    .next (toPhase 3 { s with
      c.dmaIdx := BitVec.ofNat 11 (s.c.row.toNat * rowWords s)
      c.dmaRem := BitVec.ofNat 7 (rowWords s)
      c.dmaBusy := true })) s

/-- `C.POLL` (R186): a taken token sets `redraw_pending`. -/
def execCPoll (s : State) : Host.Outcome State Fault Refusal :=
  consumerStep (fun s =>
    (pollReady (fun got t => .ok (if got then { t with c.redrawPending := true } else t)) s).outcome (toPhase 4)) s

/-- `C.WAITDMA` (R187): no step while the channel is busy. -/
def execCWaitdma (s : State) : Host.Outcome State Fault Refusal :=
  consumerStep (fun s => .next (if s.c.dmaBusy then s else toPhase 5 s)) s

/-- `C.DUMMY2` (R188): two words of value 0. -/
def execCDummy2 (s : State) : Host.Outcome State Fault Refusal :=
  consumerStep (fun s => .next (toPhase 6 { s with c.shFifo := s.c.shFifo ++ [0, 0] })) s

/-- `C.REDRAW` (R189): a slice, if one is allowed and the free choice takes it, else on to `C.WAITSTROBE`. -/
def execCRedraw (s : State) : Host.Outcome State Fault Refusal :=
  consumerStep (fun s =>
    if redrawEligible s then
      if (choose s).1 then (sliceBody (choose s).2).outcome id else .next (toPhase 7 (choose s).2)
    else .next (toPhase 7 s)) s

/-- `C.WAITSTROBE` (R195): no step until the row strobe is idle and the row is shifted out. -/
def execCWaitstrobe (s : State) : Host.Outcome State Fault Refusal :=
  consumerStep (fun s => .next (if strobeReady s then toPhase 8 s else s)) s

/-- `C.STROBE` (R196): latch, start the pulse, emit `ROWOUT`. -/
def execCStrobe (s : State) : Host.Outcome State Fault Refusal :=
  consumerStep (fun s =>
    .next (toPhase 9 { s with
      c.shLine := []
      c.rsRow := s.c.row
      c.rsBit := s.c.bit
      c.rsWidth := pulseWidth s
      c.rsBusy := true
      c.trace := s.c.trace ++ [Event.rowOut s.c.row s.c.bit s.c.shLine (pulseWidth s)] })) s

/-- `C.NEXT` (R197). -/
def execCNext (s : State) : Host.Outcome State Fault Refusal :=
  consumerStep (fun s =>
    .next (
      if s.c.bit.toNat < 7 then toPhase 1 { s with c.bit := s.c.bit + 1 }
      else if s.c.row.toNat + 1 < scan s then toPhase 1 { s with c.bit := bitLo s, c.row := s.c.row + 1 }
      else toPhase 10 s)) s

/-- `C.FLIP` (R198). -/
def execCFlip (s : State) : Host.Outcome State Fault Refusal :=
  consumerStep (fun s =>
    (if s.c.flipPending then flipBody s else .ok s).outcome
      (fun t => toPhase 1 { t with c.row := 0, c.bit := bitLo t })) s

/-- `C.HALTED` (60_exceptions.md R230): no step, ever. -/
def execCHalted (s : State) : Host.Outcome State Fault Refusal := consumerStep (fun s => .next s) s

/-- `BPD.SLICE.IDLE` (R191). -/
def execSliceIdle (s : State) : Host.Outcome State Fault Refusal :=
  consumerStep (fun s => (sliceIdleBody s).outcome id) s

/-- `BPD.SLICE.CLEAR` (R192). -/
def execSliceClear (s : State) : Host.Outcome State Fault Refusal :=
  consumerStep (fun s => (sliceClearBody s).outcome id) s

/-- `BPD.SLICE.PARTICLES` (R193, R194). -/
def execSliceParticles (s : State) : Host.Outcome State Fault Refusal :=
  consumerStep (fun s => (sliceParticlesBody s).outcome id) s

/-- `FSH.POLLRDY` by itself (42_fsh.md R166): it writes `p2c_ack` only; what its answer does is `C.POLL`'s. -/
def execFshPollrdy (s : State) : Host.Outcome State Fault Refusal :=
  consumerStep (fun s => (pollReady (fun _ t => .ok t) s).outcome id) s

/-- `FSH.SENDCONS` by itself (R167). -/
def execFshSendcons (s : State) : Host.Outcome State Fault Refusal :=
  consumerStep (fun s => (sendConsumed s).outcome id) s

/-- `BPD.SLICE` by itself (R190): the slice of the state's `rstate`. -/
def execBpdSlice (s : State) : Host.Outcome State Fault Refusal :=
  consumerStep (fun s => (sliceBody s).outcome id) s

/-- `TOK_READY` (30_encoding.md R103): the word, visible in P2C, is taken by its receiver, which marks a redraw pending
(42_fsh.md R166, R186). With no token visible there is nothing to take (log 17). -/
def execTokReady (s : State) : Host.Outcome State Fault Refusal :=
  consumerStep (fun s =>
    if p2cAvail s then
      (takeReady tokReadyWord s).outcome (fun t => { t with c.redrawPending := true })
    else .next s) s

end Sys2Proof.Machine
end

