-- ==== Sys2Proof/Machine/Engine.lean ====
section
/-! DEFINITION. The arithmetic and the per-particle operations of `iterate` (41_ppe.md R121, R122, R127 to R137). -/

namespace Sys2Proof.Machine

open Sys2Proof.Config

/-! ## Arithmetic -/

/-- `tdiv(a, b)`: integer division truncating toward zero (R121). -/
def tdiv (a b : Int) : Int := Int.tdiv a b

/-- `sgn(v)` (00_scope.md R10). -/
def sgn (v : Int) : Int := if v < 0 then -1 else if v = 0 then 0 else 1

/-- The bits of the root, from the highest down: `acc` is the part found so far. -/
def isqrtFrom (n : Nat) : Nat → Nat → Nat
  | 0, acc => acc
  | b + 1, acc =>
    if (acc + 2 ^ b) * (acc + 2 ^ b) ≤ n then isqrtFrom n b (acc + 2 ^ b) else isqrtFrom n b acc

/-- `isqrt(n)`: the largest `k` with `k·k ≤ n` (00_scope.md R10). -/
def isqrt (n : Nat) : Nat := isqrtFrom n (n.log2 / 2 + 1) 0

/-- `bounce(v) = tdiv(−v·ELASTICITY, 256)` (R122). -/
def bounce (e : Nat) (v : Int) : Int := tdiv (-v * (e : Int)) 256

/-- One component of the rescaled velocity (R132). -/
def rescale (v v2 : Int) : Int := sgn v * (isqrt (65536 * (v * v) / v2).toNat : Int)

/-- `clamp_speed(vx, vy)` (R132). -/
def clampSpeed (vx vy : Int) : Int × Int :=
  if vx * vx + vy * vy > 65536 then
    (rescale vx (vx * vx + vy * vy), rescale vy (vx * vx + vy * vy))
  else (vx, vy)

/-! ## `P.SCALE` (R128) -/

/-- The four results of `P.SCALE`. -/
structure Scaled where
  ax2 : Int
  ay2 : Int
  az2 : Nat
  jmax : Nat
  deriving DecidableEq, Repr

/-- `az1 = abs(tdiv(az·SCALE, 2048))` (R128). -/
def scaledAz (scale : Nat) (az : Int) : Nat := (tdiv (az * (scale : Int)) 2048).natAbs

/-- The invert and clamp of `az` into 1..5 (R128). -/
def jitterHalf (az1 : Nat) : Nat := if az1 ≥ 4 then 1 else 5 - az1

/-- The scaled, reduced acceleration and the jitter range (R128). -/
def scaleInputs (scale : Nat) (ax ay az : Int) : Scaled where
  ax2 := tdiv (ax * (scale : Int)) 256 - (jitterHalf (scaledAz scale az) : Int)
  ay2 := tdiv (ay * (scale : Int)) 256 - (jitterHalf (scaledAz scale az) : Int)
  az2 := jitterHalf (scaledAz scale az)
  jmax := 2 * jitterHalf (scaledAz scale az)

/-- `P.SCALE`: only working registers are written (R128). -/
def scaleOp (s : State) : State :=
  let r := scaleInputs (cfgScale s) (opAx s) (opAy s) (opAz s)
  { s with p.work := { s.p.work with ax2 := r.ax2, ay2 := r.ay2, az2 := r.az2, jmax := r.jmax } }

/-! ## `P.SORT` (R129, R130) -/

/-- The direction nearest to `(ax2, ay2)` among the eight (R129). -/
def sortDirection (ax2 ay2 : Int) : Int × Int :=
  let a := |ax2|
  let b := |ay2|
  if a = 0 ∧ b = 0 then (1, 0)
  else if (a + b) * (a + b) < 2 * a * a then (sgn ax2, 0)
  else if (a + b) * (a + b) < 2 * b * b then (0, sgn ay2)
  else (sgn ax2, sgn ay2)

/-- `key(p) = dx·p.x + dy·p.y` (R130). -/
def sortKey (dx dy : Int) (q : Particle) : Int := dx * (q.x.toNat : Int) + dy * (q.y.toNat : Int)

/-- Insert an entry that stood before all of a list: it goes before the entries of equal key (R130, stable). -/
def insertByKey (dx dy : Int) (q : Particle) : List Particle → List Particle
  | [] => [q]
  | r :: rs => if sortKey dx dy r ≤ sortKey dx dy q then q :: r :: rs else r :: insertByKey dx dy q rs

/-- The stable sort with `key` non-increasing (R130; log 11). -/
def sortByKey (dx dy : Int) : List Particle → List Particle
  | [] => []
  | q :: qs => insertByKey dx dy q (sortByKey dx dy qs)

/-- Write a list of entries from index `k` on. -/
def writeParts : Nat → List Particle → State → State
  | _, [], s => s
  | k, q :: qs, s => writeParts (k + 1) qs (writePart k q s)

/-- The active entries `part[0..count−1]`. -/
def activeParts (s : State) : List Particle := (List.range s.p.count.toNat).map (readPart s)

/-- The micro-operation `P.SORT`: the direction, then the entries `0..count−1` rearranged in place (R129, R130). -/
def sortOp (s : State) : State :=
  let d := sortDirection s.p.work.ax2 s.p.work.ay2
  let sorted := sortByKey d.1 d.2 (activeParts s)
  writeParts 0 sorted { s with p.work := { s.p.work with dx := d.1, dy := d.2 } }

/-- `P.SORT` as `iterate` performs it: passed through without effect when `SORT_EN = 0` (10_state.md R25, R126). -/
def sortIfEnabled (s : State) : State := if cfgSortEn s then sortOp s else s

/-! ## `P.ACCEL(i)` (R131) -/

/-- The velocity of particle `k` after acceleration, jitter and clamp, from the two draws (R131, R132). -/
def accelerated (w : PpeWork) (q : Particle) (jx jy : Nat) : Int × Int :=
  clampSpeed (q.vx.toInt + w.ax2 + (jx : Int)) (q.vy.toInt + w.ay2 + (jy : Int))

/-- `P.ACCEL(k)`: two draws, x first (R127, R131). -/
def accelOp (k : Nat) (s : State) : State :=
  let q := readPart s k
  let dx := draw s.p.work.jmax s
  let dy := draw s.p.work.jmax dx.2
  let v := accelerated s.p.work q dx.1 dy.1
  writePart k { q with vx := BitVec.ofInt 16 v.1, vy := BitVec.ofInt 16 v.2 }
    { dy.2 with p.i := BitVec.ofNat 10 k, p.work := { s.p.work with vx := v.1, vy := v.2 } }

/-! ## `P.MOVE(i)` (R133 to R137) -/

/-- The working position and velocity of one particle. -/
structure Motion where
  nx : Int
  ny : Int
  vx : Int
  vy : Int
  deriving DecidableEq, Repr

/-- The cell of a subpixel coordinate, `v >> 8` (00_scope.md R12). -/
def cellOf (v : Int) : Nat := v.toNat / 256

/-- One axis of the wall clamp: the candidate position and velocity (R133). -/
def wallClamp (e : Nat) (max o v : Int) : Int × Int :=
  if o + v < 0 then (0, bounce e v) else if o + v > max then (max, bounce e v) else (o + v, v)

/-- Give up the x move: `nx <- ox`, `vx <- bounce(vx)`. -/
def cancelX (e : Nat) (ox : Int) (m : Motion) : Motion := { m with nx := ox, vx := bounce e m.vx }

/-- Give up the y move: `ny <- oy`, `vy <- bounce(vy)`. -/
def cancelY (e : Nat) (oy : Int) (m : Motion) : Motion := { m with ny := oy, vy := bounce e m.vy }

/-- Diagonal collision: skid along the faster axis, else along the other, else cancel both (R136). -/
def skid (e : Nat) (ox oy : Int) (freeX freeY : Bool) (m : Motion) : Motion :=
  if |m.vx| ≥ |m.vy| then
    if freeX then cancelY e oy m
    else if freeY then cancelX e ox m
    else cancelX e ox (cancelY e oy m)
  else
    if freeY then cancelX e ox m
    else if freeX then cancelY e oy m
    else cancelX e ox (cancelY e oy m)

/-- The linear cell index `cy·W + cx` of a position (00_scope.md R12, R134). -/
def cellIndex (s : State) (x y : Int) : Int := (cellOf y * s.geom.w + cellOf x : Nat)

/-- Candidate position and walls (R133). -/
def candidate (s : State) (q : Particle) : Motion :=
  let mx := wallClamp (cfgElasticity s) (xmax s) q.x.toNat q.vx.toInt
  let my := wallClamp (cfgElasticity s) (ymax s) q.y.toNat q.vy.toInt
  ⟨mx.1, my.1, mx.2, my.2⟩

/-- Commit (R137): the old cell's bit is cleared, the new one's set, position and velocity are stored. -/
def commitMove (k : Nat) (q : Particle) (m : Motion) (s : State) : Result :=
  (obmPut false (cellOf q.x.toNat) (cellOf q.y.toNat) s).andThen fun s1 =>
    (obmPut true (cellOf m.nx) (cellOf m.ny) s1).andThen fun s2 =>
      .ok (writePart k
        { q with
          x := BitVec.ofInt 16 m.nx, y := BitVec.ofInt 16 m.ny
          vx := BitVec.ofInt 16 m.vx, vy := BitVec.ofInt 16 m.vy }
        { s2 with p.work := { s2.p.work with nx := m.nx, ny := m.ny, vx := m.vx, vy := m.vy } })

/-- Collision resolution, when the new cell is occupied: by the index difference (R135), else the diagonal case, for
which the two single-axis cells are read (R136). -/
def resolveHit (k : Nat) (q : Particle) (delta : Nat) (m : Motion) (s : State) : Result :=
  let e := cfgElasticity s
  let ox : Int := q.x.toNat
  let oy : Int := q.y.toNat
  if delta = 1 then commitMove k q (cancelX e ox m) s
  else if delta = s.geom.w then commitMove k q (cancelY e oy m) s
  else
    obmGet (cellOf m.nx) (cellOf oy) (fun bx =>
      obmGet (cellOf ox) (cellOf m.ny) (fun bY =>
        commitMove k q (skid e ox oy (!bx) (!bY) m) s) s) s

/-- `P.MOVE(k)` (R133 to R137). -/
def moveOp (k : Nat) (s : State) : Result :=
  let q := readPart s k
  let m := candidate s q
  let oldidx := cellIndex s q.x.toNat q.y.toNat
  let newidx := cellIndex s m.nx m.ny
  let delta := (newidx - oldidx).natAbs
  let s1 : State :=
    { s with
      p.i := BitVec.ofNat 10 k
      p.work := { s.p.work with
        ox := q.x.toNat, oy := q.y.toNat, oldidx := oldidx, newidx := newidx, delta := delta } }
  if oldidx = newidx then commitMove k q m s1
  else
    obmGet (cellOf m.nx) (cellOf m.ny)
      (fun hit => if hit then resolveHit k q delta m s1 else commitMove k q m s1) s1

/-! ## The whole of `iterate` (R126) -/

/-- Every particle entry below `count` exists (20_memory.md R62; log 14). -/
def withParticles (s : State) (rest : State → Result) : Result :=
  if capacity < s.p.count.toNat then .stop (.particleIndex capacity) else rest s

/-- The velocity pass (R126, R138). -/
def accelAll (s : State) : State := (List.range s.p.count.toNat).foldl (fun t k => accelOp k t) s

/-- The motion pass (R126, R138). -/
def moveAll (s : State) : Result := runEach moveOp (List.range s.p.count.toNat) s

/-- `iterate`: scale, sort if enabled, velocity pass, motion pass (R126), after the gate. -/
def iterate (s : State) : Result :=
  withParticles s fun s => moveAll (accelAll (sortIfEnabled (scaleOp s)))

end Sys2Proof.Machine
end

