-- ==== Sys2Proof/Machine/Obm.lean ====
section
/-! DEFINITION. `NOP` and the host commands of the occupancy bitmap (41_ppe.md R142, 40_obm.md R110 to R114). -/

namespace Sys2Proof.Machine

/-- The pseudocode of `NOP` (R142): nothing. -/
def bodyNop (s : State) : Result := .ok s

/-- The pseudocode of `OBM.SET` (R111). -/
def bodyObmSet (s : State) : Result := obmPut true (opCx s) (opCy s) s

/-- The pseudocode of `OBM.CLR` (R112). -/
def bodyObmClr (s : State) : Result := obmPut false (opCx s) (opCy s) s

/-- The pseudocode of `OBM.GET` (R110): `P_RESULT` is 0 or 1. -/
def bodyObmGet (s : State) : Result :=
  obmGet (opCx s) (opCy s)
    (fun b => .ok { s with p.result := (BitVec.ofBool b).zeroExtend 32 }) s

/-- The pseudocode of `OBM.CLRALL` (R113). -/
def bodyObmClrall (s : State) : Result := .ok (obmClearAll s)

/-- `NOP` (R142). -/
def execNop (s : State) : Host.Outcome State Fault Refusal := command 0x00 bodyNop s

/-- `OBM.SET cx, cy` (R111). -/
def execObmSet (s : State) : Host.Outcome State Fault Refusal := command 0x01 bodyObmSet s

/-- `OBM.CLR cx, cy` (R112). -/
def execObmClr (s : State) : Host.Outcome State Fault Refusal := command 0x02 bodyObmClr s

/-- `OBM.GET cx, cy` (R110). -/
def execObmGet (s : State) : Host.Outcome State Fault Refusal := command 0x03 bodyObmGet s

/-- `OBM.CLRALL` (R113). -/
def execObmClrall (s : State) : Host.Outcome State Fault Refusal := command 0x04 bodyObmClrall s

end Sys2Proof.Machine
end

