-- ==== Sys2Proof/Machine/Ppe.lean ====
section
/-! DEFINITION. The host commands of the engine and of the producer half of the handshake (41_ppe.md R123 to R126,
R139, R140; 42_fsh.md R163 to R165, R168). -/

namespace Sys2Proof.Machine

open Sys2Proof.Config

/-! ## The loads (R123, R124) -/

/-- One pixel of the background image (R123). The loops stay in range, so `ObmSet` is without its check. -/
def loadPixel (base : Word) (k : Nat) (s : State) : State :=
  let r := memRead (base + BitVec.ofNat 32 (4 * k)) s
  let x := k % s.geom.w
  let y := k / s.geom.w
  if r.1 ≠ 0 then setObmRow y (withBit (obmRow r.2 y) x true) r.2 else r.2

/-- The pseudocode of `PPE.LDBG base` (R123): `W·H` reads, row-major, ascending. -/
def bodyPpeLdbg (s : State) : Result :=
  if aligned (opBase s) then
    .ok ((List.range (s.geom.h * s.geom.w)).foldl (fun t k => loadPixel (opBase s) k t) s)
  else .raised (raiseP fAlign (info24 (opBase s)) s)

/-- One triple of the particle table (R124): the position is the centre of the cell, at zero velocity. -/
def loadTriple (base : Word) (k : Nat) (s : State) : Result :=
  let rx := memRead (base + BitVec.ofNat 32 (12 * k)) s
  let ry := memRead (base + BitVec.ofNat 32 (12 * k + 4)) rx.2
  let rc := memRead (base + BitVec.ofNat 32 (12 * k + 8)) ry.2
  let cx := rx.1.toNat
  let cy := ry.1.toNat
  if inField rc.2 cx cy then
    obmPut true cx cy
      (writePart k
        ⟨BitVec.ofNat 16 (cx * 256 + 128), BitVec.ofNat 16 (cy * 256 + 128), 0, 0, rc.1⟩ rc.2)
  else .raised (raiseP fRange (rangeInfo cx cy) rc.2)

/-- The pseudocode of `PPE.LDPART base, n` (R124): capacity, alignment, then the triples; `count` is written last. -/
def bodyPpeLdpart (s : State) : Result :=
  if capacity < opCount s then .raised (raiseP fCapacity (info24 s.p.x1) s)
  else if aligned (opBase s) then
    (runEach (loadTriple (opBase s)) (List.range (opCount s)) s).andThen fun t =>
      .ok { t with p.count := BitVec.ofNat 10 (opCount s) }
  else .raised (raiseP fAlign (info24 (opBase s)) s)

/-- The pseudocode of `PPE.CLRALL` (R125). -/
def bodyPpeClrall (s : State) : Result := .ok (obmClearAll s)

/-! ## `PPE.ITER`, `PPE.SNAP` (R126, R139) -/

/-- The pseudocode of `PPE.ITER` (R126), behind the gate. -/
def bodyPpeIter (s : State) : Result := gated 0x13 iterate s

/-- One entry of the snapshot (R139). -/
def snapEntry (k : Nat) (s : State) : State :=
  stgWrite k ⟨(readPart s k).x, (readPart s k).y, (readPart s k).color⟩ s

/-- The snapshot into the staging table (R139). -/
def snapshot (s : State) : Result :=
  withParticles s fun s =>
    let t := (List.range s.p.count.toNat).foldl (fun t k => snapEntry k t) s
    .ok { t with p.stgCount := t.p.count }

/-- The pseudocode of `PPE.SNAP` (R139), behind the gate. -/
def bodyPpeSnap (s : State) : Result := gated 0x14 snapshot s

/-! ## The producer half of the handshake -/

/-- Enter or stay in the wait: `pphase <- P.WAIT`, `BUSY` stays 1. -/
def waiting (s : State) : State := { s with p.pphase := 6 }

/-- Send "ready" once the slot is seen empty, else wait (42_fsh.md R163). -/
def sendOrWait (s : State) : Result := if p2cFullSeen s then .pending (waiting s) else .ok (sendReady s)

/-- The pseudocode of `FSH.SENDRDY` (R163), behind the gate. -/
def bodyFshSendrdy (s : State) : Result := gated 0x20 sendOrWait s

/-- `wait_consumed()` as the command meets it (R164): nothing outstanding, a visible token, or the wait. -/
def waitConsumed (s : State) : Result :=
  if s.p.inflight then
    if c2pAvail s then takeConsumed s.c.c2pData s else .pending (waiting s)
  else .ok { s with p.lastTimeout := false }

/-- The pseudocode of `FSH.WAITCONS` (R164). -/
def bodyFshWaitcons (s : State) : Result := waitConsumed s

/-- What `PPE.TICK` does after a wait that ended in a token: `iterate` goes on by micro-operations, the step of the
receive being one step (R164, 41_ppe.md R140; log 3). -/
def tickAfterWait (s : State) : Result := .pending { s with p.pphase := 1, p.i := 0 }

/-- `PPE.SNAP`, then `FSH.SENDRDY`: the end of a tick (R140). -/
def snapAndSend (s : State) : Result := (bodyPpeSnap s).andThen bodyFshSendrdy

/-- The pseudocode of `PPE.TICK` (R140). With nothing in flight the whole tick is one step; with a frame in flight
it waits first, and then goes on by micro-operations (log 3). The cursor is 0 once the motion pass is over (log 20). -/
def bodyPpeTick (s : State) : Result :=
  if s.p.inflight then (waitConsumed s).andThen tickAfterWait
  else (bodyPpeIter { s with p.lastTimeout := false }).andThen fun t => snapAndSend { t with p.i := 0 }

/-! ## The meanings -/

/-- `PPE.LDBG base` (R123). -/
def execPpeLdbg (s : State) : Host.Outcome State Fault Refusal := command 0x10 bodyPpeLdbg s

/-- `PPE.LDPART base, n` (R124). -/
def execPpeLdpart (s : State) : Host.Outcome State Fault Refusal := command 0x11 bodyPpeLdpart s

/-- `PPE.CLRALL` (R125). -/
def execPpeClrall (s : State) : Host.Outcome State Fault Refusal := command 0x12 bodyPpeClrall s

/-- `PPE.ITER ax, ay, az` (R126), one atomic step (10_state.md R25). -/
def execPpeIter (s : State) : Host.Outcome State Fault Refusal := command 0x13 bodyPpeIter s

/-- `PPE.SNAP` (R139). -/
def execPpeSnap (s : State) : Host.Outcome State Fault Refusal := command 0x14 bodyPpeSnap s

/-- `PPE.TICK ax, ay, az` (R140). -/
def execPpeTick (s : State) : Host.Outcome State Fault Refusal := command 0x15 bodyPpeTick s

/-- `FSH.SENDRDY` (42_fsh.md R163). -/
def execFshSendrdy (s : State) : Host.Outcome State Fault Refusal := command 0x20 bodyFshSendrdy s

/-- `FSH.WAITCONS` (R164). -/
def execFshWaitcons (s : State) : Host.Outcome State Fault Refusal := command 0x21 bodyFshWaitcons s

end Sys2Proof.Machine
end

