-- ==== Sys2Proof/Machine/Phase.lean ====
section
/-! DEFINITION. The producer micro-operations, format UP (30_encoding.md R96): one step each of agent `P`, at the
sequencer position `(pphase, i)` (10_state.md R25). -/

namespace Sys2Proof.Machine

open Sys2Proof.Config

/-- The end of the motion pass: a tick goes on with its snapshot under `P.EXEC`, any other command is complete. -/
def endOfMotion (s : State) : State :=
  if s.p.opc = 0x15 then { s with p.pphase := 5, p.i := 0 } else complete s

/-- The position after the velocity pass: the motion pass, which is skipped when `count = 0` (10_state.md R25). -/
def toMotion (s : State) : State :=
  if s.p.count = 0 then endOfMotion s else { s with p.pphase := 4, p.i := 0 }

/-- The position after the sort: the velocity pass, which is skipped when `count = 0` (R25). -/
def toVelocity (s : State) : State :=
  if s.p.count = 0 then endOfMotion s else { s with p.pphase := 3, p.i := 0 }

/-- The position after particle `i` of the velocity pass. -/
def afterAccel (s : State) : State :=
  if s.p.i.toNat + 1 < s.p.count.toNat then { s with p.i := s.p.i + 1 } else toMotion s

/-- The position after particle `i` of the motion pass. -/
def afterMove (s : State) : State :=
  if s.p.i.toNat + 1 < s.p.count.toNat then { s with p.i := s.p.i + 1 } else endOfMotion s

/-- What is left of the command in progress under `P.EXEC` (41_ppe.md R120, R140): the end of a tick, or the whole
pseudocode of another command. No acceptance latches an unlisted opcode; one is treated as R97 says (log 18). -/
def inProgress (s : State) : Result :=
  match decodeCommand (s.p.opc.zeroExtend 32) with
  | .ok .obmSet => bodyObmSet s
  | .ok .obmClr => bodyObmClr s
  | .ok .obmGet => bodyObmGet s
  | .ok .obmClrall => bodyObmClrall s
  | .ok .ppeLdbg => bodyPpeLdbg s
  | .ok .ppeLdpart => bodyPpeLdpart s
  | .ok .ppeClrall => bodyPpeClrall s
  | .ok .ppeIter => bodyPpeIter s
  | .ok .ppeSnap => bodyPpeSnap s
  | .ok .ppeTick => snapAndSend s
  | .ok .fshSendrdy => bodyFshSendrdy s
  | .ok .fshWaitcons => bodyFshWaitcons s
  | .ok _ => bodyNop s
  | .error _ => .raised (raiseP fBadcmd (s.p.opc.zeroExtend 24) s)

/-- One `pclk` edge of the wait for "consumed" (42_fsh.md R164, R165): a visible token wins; else the timeout is a
free choice, and while it is not taken the wait goes on. -/
def waitEdge (s : State) : Result :=
  if c2pAvail s then
    (takeConsumed s.c.c2pData s).andThen fun t => if t.p.opc = 0x15 then tickAfterWait t else .ok t
  else if (choose s).1 then .ok (timeoutWarning (choose s).2)
  else .pending (choose s).2

/-- The wait of the command in progress: for "consumed" while a frame is in flight (R164); with none in flight, for
the outbound slot of a send (R163, R140). `FSH.WAITCONS` with nothing in flight returns at once. -/
def waitStep (s : State) : Result :=
  if s.p.inflight then waitEdge s
  else if s.p.opc = 0x20 ∨ s.p.opc = 0x15 then sendOrWait s
  else waitConsumed s

/-- `P.IDLE` (41_ppe.md R120): no command is executing, nothing happens. -/
def execPIdle (s : State) : Host.Outcome State Fault Refusal := producerStep (fun s => .next s) s

/-- `P.SCALE` (R128), then `P.SORT`. -/
def execPScale (s : State) : Host.Outcome State Fault Refusal :=
  producerStep (fun s => .next { scaleOp s with p.pphase := 2 }) s

/-- `P.SORT` (R129, R130), passed through without effect when `SORT_EN = 0`; then the velocity pass. -/
def execPSort (s : State) : Host.Outcome State Fault Refusal :=
  producerStep (fun s => (withParticles s fun s => .ok (sortIfEnabled s)).outcome toVelocity) s

/-- `P.ACCEL(i)` (R131, R132), then the next particle or the motion pass. -/
def execPAccel (s : State) : Host.Outcome State Fault Refusal :=
  producerStep (fun s =>
    (withParticles s fun s =>
      .ok (if s.p.i.toNat < s.p.count.toNat then accelOp s.p.i.toNat s else s)).outcome afterAccel) s

/-- `P.MOVE(i)` (R133 to R137), then the next particle or the end of `iterate`. -/
def execPMove (s : State) : Host.Outcome State Fault Refusal :=
  producerStep (fun s =>
    (withParticles s fun s =>
      if s.p.i.toNat < s.p.count.toNat then moveOp s.p.i.toNat s else .ok s).outcome afterMove) s

/-- `P.EXEC` (R120): the command in progress is performed and completed. -/
def execPExec (s : State) : Host.Outcome State Fault Refusal :=
  producerStep (fun s => (inProgress s).outcome complete) s

/-- `P.WAIT` (42_fsh.md R163 to R165). -/
def execPWait (s : State) : Host.Outcome State Fault Refusal :=
  producerStep (fun s => (waitStep s).outcome complete) s

/-- `P.HALTED` (60_exceptions.md R230): no step, ever. -/
def execPHalted (s : State) : Host.Outcome State Fault Refusal := producerStep (fun s => .next s) s

/-- `TOK_CONSUMED` (30_encoding.md R103): the word, visible in C2P, is taken by its receiver (42_fsh.md R164 (a)). With
no token visible there is nothing to take (log 17). -/
def execTokConsumed (s : State) : Host.Outcome State Fault Refusal :=
  producerStep (fun s =>
    if c2pAvail s then (takeConsumed tokConsumedWord s).outcome id else .next s) s

end Sys2Proof.Machine
end

