-- ==== Sys2Proof/Machine/Dispatch.lean ====
section
/-! DEFINITION. The dispatch: one arm per operation. -/

namespace Sys2Proof.Machine

def exec (i : Instr) (s : State) : Host.Outcome State Fault Refusal :=
  match i with
  | .nop => Sys2Proof.Machine.execNop s
  | .obmSet => Sys2Proof.Machine.execObmSet s
  | .obmClr => Sys2Proof.Machine.execObmClr s
  | .obmGet => Sys2Proof.Machine.execObmGet s
  | .obmClrall => Sys2Proof.Machine.execObmClrall s
  | .ppeLdbg => Sys2Proof.Machine.execPpeLdbg s
  | .ppeLdpart => Sys2Proof.Machine.execPpeLdpart s
  | .ppeClrall => Sys2Proof.Machine.execPpeClrall s
  | .ppeIter => Sys2Proof.Machine.execPpeIter s
  | .ppeSnap => Sys2Proof.Machine.execPpeSnap s
  | .ppeTick => Sys2Proof.Machine.execPpeTick s
  | .fshSendrdy => Sys2Proof.Machine.execFshSendrdy s
  | .fshWaitcons => Sys2Proof.Machine.execFshWaitcons s
  | .cOff => Sys2Proof.Machine.execCOff s
  | .cSetbit => Sys2Proof.Machine.execCSetbit s
  | .cDmastart => Sys2Proof.Machine.execCDmastart s
  | .cPoll => Sys2Proof.Machine.execCPoll s
  | .cWaitdma => Sys2Proof.Machine.execCWaitdma s
  | .cDummy2 => Sys2Proof.Machine.execCDummy2 s
  | .cRedraw => Sys2Proof.Machine.execCRedraw s
  | .cWaitstrobe => Sys2Proof.Machine.execCWaitstrobe s
  | .cStrobe => Sys2Proof.Machine.execCStrobe s
  | .cNext => Sys2Proof.Machine.execCNext s
  | .cFlip => Sys2Proof.Machine.execCFlip s
  | .cHalted => Sys2Proof.Machine.execCHalted s
  | .pIdle => Sys2Proof.Machine.execPIdle s
  | .pScale => Sys2Proof.Machine.execPScale s
  | .pSort => Sys2Proof.Machine.execPSort s
  | .pAccel => Sys2Proof.Machine.execPAccel s
  | .pMove => Sys2Proof.Machine.execPMove s
  | .pExec => Sys2Proof.Machine.execPExec s
  | .pWait => Sys2Proof.Machine.execPWait s
  | .pHalted => Sys2Proof.Machine.execPHalted s
  | .sliceIdle => Sys2Proof.Machine.execSliceIdle s
  | .sliceClear => Sys2Proof.Machine.execSliceClear s
  | .sliceParticles => Sys2Proof.Machine.execSliceParticles s
  | .fshPollrdy => Sys2Proof.Machine.execFshPollrdy s
  | .fshSendcons => Sys2Proof.Machine.execFshSendcons s
  | .bpdSlice => Sys2Proof.Machine.execBpdSlice s
  | .tokReady => Sys2Proof.Machine.execTokReady s
  | .tokConsumed => Sys2Proof.Machine.execTokConsumed s

end Sys2Proof.Machine
end

