-- ==== Sys2Proof/Machine/Agents.lean ====
section
/-! DEFINITION. The helper agents of the display (43_bpd.md R199 to R202), the synchronisers (42_fsh.md R162) and
reset (70_reset_and_hazards.md R250). -/

namespace Sys2Proof.Machine

open Sys2Proof.Config

/-- Agent `DMA` (R199): one word of the front buffer into the queue. No step while idle or halted. -/
def dmaStep (s : State) : Host.Outcome State Fault Refusal :=
  if s.c.halt || !s.c.dmaBusy then .next s
  else if s.c.dmaIdx.toNat < fbWords s then
    .next { s with
      c.shFifo := s.c.shFifo ++ [fbRead s s.c.front s.c.dmaIdx.toNat]
      c.dmaIdx := s.c.dmaIdx + 1
      c.dmaRem := s.c.dmaRem - 1
      c.dmaBusy := decide (s.c.dmaRem - 1 ≠ 0) }
  else .fault (.framebufferIndex s.c.dmaIdx.toNat)

/-- The column value of an upper and a lower word in plane `b` (R201): bits `R0 G0 B0 R1 G1 B1` from bit 0 up. -/
def column (u l : Word) (b : BitVec 3) : BitVec 6 :=
  BitVec.ofBool (l.getLsbD (16 + b.toNat)) ++ BitVec.ofBool (l.getLsbD (8 + b.toNat))
    ++ BitVec.ofBool (l.getLsbD b.toNat) ++ BitVec.ofBool (u.getLsbD (16 + b.toNat))
    ++ BitVec.ofBool (u.getLsbD (8 + b.toNat)) ++ BitVec.ofBool (u.getLsbD b.toNat)

/-- Agent `SH` on a popped word (R200): a dummy word is discarded, an upper pixel is held, a lower pixel makes a
column with the held one. -/
def shiftWord (w : Word) (s : State) : Host.Outcome State Fault Refusal :=
  if s.c.shCount.toNat ≥ rowWords s then .next { s with c.shCount := s.c.shCount + 1 }
  else if s.c.shCount.toNat % 2 = 0 then
    .next { s with c.shHold := some w, c.shCount := s.c.shCount + 1 }
  else
    match s.c.shHold with
    | some u =>
      .next { s with
        c.shLine := s.c.shLine ++ [column u w s.c.shBit]
        c.shHold := none
        c.shCount := s.c.shCount + 1 }
    | none => .fault .missingPairHalf

/-- Agent `SH` (R200). No step while the queue is empty or the domain halted. -/
def shStep (s : State) : Host.Outcome State Fault Refusal :=
  if s.c.halt then .next s
  else
    match s.c.shFifo with
    | [] => .next s
    | w :: rest => shiftWord w { s with c.shFifo := rest }

/-- Agent `RS` (R202): the running pulse ends. No step while idle or halted. -/
def rsStep (s : State) : State := if s.c.halt || !s.c.rsBusy then s else { s with c.rsBusy := false }

/-- Agent `SYNC.C`, one `cclk` edge (42_fsh.md R162), halted or not. -/
def syncCStep (s : State) : State :=
  { s with
    c.p2cReqS2 := s.c.p2cReqS1, c.p2cReqS1 := s.p.p2cReq
    c.c2pAckS2 := s.c.c2pAckS1, c.c2pAckS1 := s.p.c2pAck }

/-- Agent `SYNC.P`, one `pclk` edge (R162), halted or not. -/
def syncPStep (s : State) : State :=
  { s with
    p.c2pReqS2 := s.p.c2pReqS1, p.c2pReqS1 := s.c.c2pReq
    p.p2cAckS2 := s.p.p2cAckS1, p.p2cAckS1 := s.c.p2cAck }

/-- `rst_n` is asserted and released (70_reset_and_hazards.md R250): both domains hold their reset values, with power-on
contents of their own in the tables that reset leaves unspecified (R252); the environment is as it was (log 19). -/
def resetStep (s : State) : State :=
  { s with p := Producer.reset, c := Consumer.reset, env.epoch := s.env.epoch + 1 }

end Sys2Proof.Machine
end

