-- ==== Sys2Proof/Machine/Flags.lean ====
section
/-! DEFINITION. The status words of the two ports, the level outputs and the other composed register images
(10_state.md R24, R27, R28, R43, R48; 60_exceptions.md R236). -/

namespace Sys2Proof.Machine

/-- `P_STATUS` (R24): bits 0 to 4 the flags, 10:8 `pphase`, the rest 0. -/
def pStatus (s : State) : Word :=
  0#21 ++ s.p.pphase ++ 0#3 ++ BitVec.ofBool s.p.lastTimeout ++ BitVec.ofBool s.p.warnTimeout
    ++ BitVec.ofBool s.p.inflight ++ BitVec.ofBool s.p.halt ++ BitVec.ofBool s.p.busy

/-- `C_STATUS` (R43). -/
def cStatus (s : State) : Word :=
  0#5 ++ s.c.bit ++ 0#3 ++ s.c.row ++ 0#6 ++ BitVec.ofBool s.c.halt ++ BitVec.ofBool s.c.front
    ++ BitVec.ofBool s.c.flipPending ++ BitVec.ofBool s.c.redrawPending ++ s.c.rstate ++ s.c.cphase

/-- `P_GEOM` (R27): `WIDTH` = bits 5:0, `HEIGHT` = bits 13:8. -/
def pGeom (s : State) : Word := 0#18 ++ BitVec.ofNat 6 s.geom.h ++ 0#2 ++ BitVec.ofNat 6 s.geom.w

/-- `P_COUNT` (R28). -/
def pCount (s : State) : Word := s.p.count.zeroExtend 32

/-- `C_CTRL` (R42): `EN` = bit 0. -/
def cCtrl (s : State) : Word := 0#31 ++ BitVec.ofBool s.c.en

/-- `C_CURSOR` (R48): `row_cursor` in bits 5:0, `part_cursor` in bits 25:16. -/
def cCursor (s : State) : Word := 0#6 ++ s.c.partCursor ++ 0#10 ++ s.c.rowCursor

/-- The level output `p_fatal_o` (60_exceptions.md R236). -/
def pFatalO (s : State) : Bool := s.p.halt

/-- The level output `p_warn_o` (R236). -/
def pWarnO (s : State) : Bool := s.p.warnTimeout

/-- The level output `c_fatal_o` (R236). -/
def cFatalO (s : State) : Bool := s.c.halt

end Sys2Proof.Machine
end

