-- ==== Sys2Proof/Machine/Ports.lean ====
section
/-! DEFINITION. The two register ports (10_state.md R23, R40, R56; 20_memory.md R65) and the other acts of HOST. -/

namespace Sys2Proof.Machine

open Sys2Proof.Config

/-- The access is an aligned 32-bit one, the only kind that is defined (20_memory.md R65). -/
def accessDefined (size : AccessSize) (offset : Word) : Bool := size == .word && aligned offset

/-- The entry the read-back window shows is defined: `BUSY = 0` and `k < count` (10_state.md R32). -/
def windowDefined (s : State) : Bool := !s.p.busy && decide (s.p.partIdx < s.p.count)

/-- A read of the window: the entry's image, else an unspecified word, fresh for each read (R32). -/
def windowRead (image : Particle → Word) (s : State) : Word × State :=
  if windowDefined s then (image (readPart s s.p.partIdx.toNat), s) else freeWord s

/-- A 32-bit read of the P port (R23): a write-only register and a reserved offset read 0. -/
def pPortRead (offset : Word) (s : State) : Word × State :=
  match offset with
  | 0x04#32 => (s.p.arg0, s)
  | 0x08#32 => (s.p.arg1, s)
  | 0x0C#32 => (s.p.arg2, s)
  | 0x10#32 => (s.p.result, s)
  | 0x14#32 => (pStatus s, s)
  | 0x18#32 => (s.p.cfg, s)
  | 0x1C#32 => (pGeom s, s)
  | 0x20#32 => (pCount s, s)
  | 0x24#32 => (s.p.timeout, s)
  | 0x28#32 => (s.p.fault, s)
  | 0x2C#32 => (s.p.partIdx.zeroExtend 32, s)
  | 0x30#32 => windowRead (fun q => q.y ++ q.x) s
  | 0x34#32 => windowRead (fun q => q.vy ++ q.vx) s
  | 0x38#32 => windowRead (fun q => q.color) s
  | 0x3C#32 => (s.p.dropCnt, s)
  | _ => (0, s)

/-- A 32-bit write of the P port, `P_CMD` apart (R23, R56; 70_reset_and_hazards.md R262): a read-only register and a
reserved offset ignore it. -/
def pPortWrite (offset value : Word) (s : State) : State :=
  match offset with
  | 0x04#32 => { s with p.arg0 := value }
  | 0x08#32 => { s with p.arg1 := value }
  | 0x0C#32 => { s with p.arg2 := value }
  | 0x14#32 => if value.getLsbD 3 then { s with p.warnTimeout := false } else s
  | 0x18#32 => if s.p.busy then s else { s with p.cfg := value &&& pCfgMask }
  | 0x24#32 => if s.p.busy then s else { s with p.timeout := value }
  | 0x2C#32 => { s with p.partIdx := value.extractLsb' 0 10 }
  | _ => s

/-- A 32-bit read of the C port (R40). -/
def cPortRead (offset : Word) (s : State) : Word :=
  match offset with
  | 0x00#32 => cCtrl s
  | 0x04#32 => cStatus s
  | 0x08#32 => s.c.cfg
  | 0x0C#32 => s.c.oeUnit.zeroExtend 32
  | 0x10#32 => s.c.frameCount
  | 0x14#32 => s.c.fault
  | 0x18#32 => cCursor s
  | _ => 0

/-- A 32-bit write of the C port (R40, R42, R44, R45; 70_reset_and_hazards.md R263). `C_CTRL` is ignored while halted
(60_exceptions.md R230), when already enabled, and when bit 0 is 0 (R42). -/
def cPortWrite (offset value : Word) (s : State) : State :=
  match offset with
  | 0x00#32 => if value.getLsbD 0 && !s.c.en && !s.c.halt then enableBpd s else s
  | 0x08#32 => if s.c.en then s else { s with c.cfg := value &&& cCfgMask }
  | 0x0C#32 => if s.c.en then s else { s with c.oeUnit := value.extractLsb' 0 16 }
  | _ => s

/-- The word a read of the P port returns: unspecified if the access is not a defined one (20_memory.md R65). -/
def pAccessRead (size : AccessSize) (offset : Word) (s : State) : State :=
  let r := if accessDefined size offset then pPortRead offset s else freeWord s
  { r.2 with env.pRdata := r.1 }

/-- The word a read of the C port returns (R65). -/
def cAccessRead (size : AccessSize) (offset : Word) (s : State) : State :=
  let r := if accessDefined size offset then (cPortRead offset s, s) else freeWord s
  { r.2 with env.cRdata := r.1 }

/-- A write of the P port, `P_CMD` apart: an access that is not a defined one changes no state (R65). -/
def pAccessWrite (size : AccessSize) (offset value : Word) (s : State) : State :=
  if accessDefined size offset then pPortWrite offset value s else s

/-- A write of the C port (R65). -/
def cAccessWrite (size : AccessSize) (offset value : Word) (s : State) : State :=
  if accessDefined size offset then cPortWrite offset value s else s

/-- An access to the C port. -/
def cAccess (a : BusAccess) (s : State) : State :=
  match a with
  | .read size offset => cAccessRead size offset s
  | .write size offset value => cAccessWrite size offset value s

/-- Host memory comes to hold a byte (20_memory.md R63). -/
def setHostByte (address : Word) (value : Byte) (s : State) : State :=
  { s with env.hostMem := Store.write none address.toNat value s.env.hostMem }

/-- The background source comes to answer a pixel (20_memory.md R64). -/
def setBackground (x y : BitVec 5) (value : Word) (s : State) : State :=
  { s with env.background := Store.write none (32 * y.toNat + x.toNat) value s.env.background }

end Sys2Proof.Machine
end

