-- ==== Sys2Proof/Machine/Fetch.lean ====
section
/-! DEFINITION. Which act comes next and which operation it runs (00_scope.md R11, 20_memory.md R78). -/

namespace Sys2Proof.Machine

open Sys2Proof.Config

/-- What the next act comes to: an operation to run, or an outcome that no operation of the table is part of. -/
inductive Fetched where
  | run (i : Instr) (s : State)
  | done (o : Host.Outcome State Fault Refusal)

/-- The next act: the head of `env.sched`, else a free one (log 1). -/
def nextAction (s : State) : Action × State :=
  match s.env.sched with
  | a :: rest => (a, { s with env.sched := rest })
  | [] => (Config.freeAction s.env.fresh, { s with env.fresh := s.env.fresh + 1 })

/-- A write of `P_CMD`: the word is decoded at the write (20_memory.md R78), an illegal one faults (30_encoding.md
R97). -/
def fetchCommand (word : Word) (s : State) : Fetched :=
  match decode (.command word) with
  | .ok i => .run i s
  | .error _ => .done (.next (illegalCommand word s))

/-- An access to the P port: a defined write of offset 0 is a write of `P_CMD`. -/
def fetchPAccess (a : BusAccess) (s : State) : Fetched :=
  match a with
  | .read size offset => .done (.next (pAccessRead size offset s))
  | .write size offset value =>
    if accessDefined size offset && offset == 0 then fetchCommand value s
    else .done (.next (pAccessWrite size offset value s))

/-- A step of agent `P`: the code of `pphase` selects the micro-operation (R96). -/
def fetchProducer (s : State) : Fetched := .run (decodeProducer s.p.pphase) s

/-- A step of agent `C`: the code of `cphase` selects the micro-operation (R95). -/
def fetchConsumer (s : State) : Fetched := .run (decodeConsumer s.c.cphase) s

/-- What an act comes to. -/
def perform (a : Action) (s : State) : Fetched :=
  match a with
  | .hostP access => fetchPAccess access s
  | .hostC access => .done (.next (cAccess access s))
  | .hostMem address value => .done (.next (setHostByte address value s))
  | .background x y value => .done (.next (setBackground x y value s))
  | .reset => .done (.next (resetStep s))
  | .agentP => fetchProducer s
  | .agentC => fetchConsumer s
  | .agentDma => .done (dmaStep s)
  | .agentSh => .done (shStep s)
  | .agentRs => .done (.next (rsStep s))
  | .syncP => .done (.next (syncPStep s))
  | .syncC => .done (.next (syncCStep s))

/-- The next act of the machine. -/
def fetch (s : State) : Fetched := perform (nextAction s).1 (nextAction s).2

/-- Put a word where the next step finds it: a command word is the host's next write of `P_CMD`; a phase code is the
sequencer's position, with its agent next; a slice code is `rstate`, under `C.REDRAW` in a slot that may redraw and
does (log 12). -/
def placeWord (s : State) (e : Encoded) : State :=
  match e with
  | .command word => { s with env.sched := .hostP (.write .word 0 word) :: s.env.sched }
  | .pphase code => { s with p.pphase := code, env.sched := .agentP :: s.env.sched }
  | .cphase code => { s with c.cphase := code, env.sched := .agentC :: s.env.sched }
  | .rstate code =>
    { s with
      c.cphase := 6, c.bit := 7, c.redrawPending := true, c.rstate := code
      env.oracle := 1 :: s.env.oracle, env.sched := .agentC :: s.env.sched }
  | .p2c word =>
    { s with
      p.p2cData := word, c.p2cReqS2 := !s.c.p2cAck, c.cphase := 3, env.sched := .agentC :: s.env.sched }
  | .c2p word =>
    { s with
      c.c2pData := word, p.c2pReqS2 := !s.p.c2pAck, p.inflight := true, p.pphase := 6
      env.sched := .agentP :: s.env.sched }

end Sys2Proof.Machine
end

