-- ==== Sys2Proof/Machine/Step.lean ====
section
/-! DEFINITION. One step of the machine: the next act is fetched, and the operation it runs is executed. -/

namespace Sys2Proof.Machine

/-- One step (00_scope.md R11): the next act; if it runs an operation, that operation's meaning. -/
def step (s : State) : Host.Outcome State Fault Refusal :=
  match fetch s with
  | .run i t => exec i t
  | .done o => o

/-- The state with the word of an opcode-table row where the next step finds it (log 12). -/
def State.withFetchWord (s : State) (nbits w : Nat) : State :=
  match tableCarrier nbits w with
  | some e => placeWord s e
  | none => s

end Sys2Proof.Machine
end

