-- ==== Sys2Proof/WellFormed.lean ====
section
/-! DEFINITION. The checks on what is not fixed by a type: whether an operation has a code of its own, and
whether a geometry is one the block can be built with. -/

namespace Sys2Proof

/-- An operation has a code of its own on some carrier; the three sub-operations share the code of the
micro-operation that performs them (42_fsh.md R160, 43_bpd.md R190). -/
def Instr.wf (i : Instr) : Bool :=
  match i with
  | .fshPollrdy | .fshSendcons | .bpdSlice => false
  | .nop | .obmSet | .obmClr | .obmGet | .obmClrall | .ppeLdbg | .ppeLdpart | .ppeClrall | .ppeIter
  | .ppeSnap | .ppeTick | .fshSendrdy | .fshWaitcons | .cOff | .cSetbit | .cDmastart | .cPoll | .cWaitdma
  | .cDummy2 | .cRedraw | .cWaitstrobe | .cStrobe | .cNext | .cFlip | .cHalted | .pIdle | .pScale | .pSort
  | .pAccel | .pMove | .pExec | .pWait | .pHalted | .sliceIdle | .sliceClear | .sliceParticles | .tokReady
  | .tokConsumed => true

/-- `W` and `H` are in 1..32 and `SIZE` is even and in 2..32 (00_scope.md R6). -/
def Config.Geometry.wf (g : Config.Geometry) : Bool :=
  decide (1 ≤ g.w ∧ g.w ≤ 32 ∧ 1 ≤ g.h ∧ g.h ≤ 32 ∧ 2 ≤ g.size ∧ g.size ≤ 32 ∧ g.size % 2 = 0)

end Sys2Proof
end

