-- ==== Sys2Proof/Safety.lean ====
section
/-! DEFINITION. The terms claims are stated in: when a domain may act, what a completed command leaves, the state
invariants, and runs of the producer's micro-operations. -/

namespace Sys2Proof.Machine

open Sys2Proof.Config

/-- The producer domain accepts a command: `HALT = 0` and `BUSY = 0` (30_encoding.md R98). -/
def Idle (s : State) : Prop := s.p.halt = false ∧ s.p.busy = false

/-- The state after a completed command that did nothing: the operands and the opcode are latched, and the sequencer is
at `P.IDLE` with `BUSY = 0` (R98, 41_ppe.md R120). Everything else is as before. -/
def ranCommand (opc : BitVec 8) (s : State) : State :=
  { s with
    p.busy := false, p.pphase := 0, p.i := 0, p.opc := opc
    p.x0 := s.p.arg0, p.x1 := s.p.arg1, p.x2 := s.p.arg2 }

/-- The state after a command that raised a fatal fault and did nothing else: the operands and the opcode are latched,
and the producer domain is halted (60_exceptions.md R230). -/
def faultedCommand (opc code : BitVec 8) (info : BitVec 24) (s : State) : State :=
  { ranCommand opc s with p.pphase := 7, p.halt := true, p.fault := info ++ code }

/-- The state after the consumer domain took a fatal fault (R230). -/
def faultedConsumer (code : BitVec 8) (info : BitVec 24) (s : State) : State :=
  { s with c.fault := info ++ code, c.halt := true, c.cphase := 11, c.trace := s.c.trace ++ [Event.blank] }

/-- The operations of format H (30_encoding.md R94), with their opcodes. -/
def hostOpcode (i : Instr) : Option (BitVec 8) :=
  match encode i with
  | .command w => some (w.extractLsb' 0 8)
  | _ => none

/-- The producer micro-operations, the operations of format UP (30_encoding.md R96). -/
def isProducerPhase (i : Instr) : Bool :=
  match encode i with
  | .pphase _ => true
  | _ => false

/-- The operations of the consumer domain: formats UC and UR, their sub-operations, and the token of P2C. -/
def isConsumerOp (i : Instr) : Bool :=
  match encode i with
  | .cphase _ => true
  | .rstate _ => true
  | .p2c _ => true
  | _ => false

/-- The word host memory is known to hold at an address, if its four bytes are known (20_memory.md R67). -/
def knownWord (s : State) (addr : Word) : Option Word :=
  match Store.find addr.toNat s.env.hostMem, Store.find (addr + 1).toNat s.env.hostMem,
      Store.find (addr + 2).toNat s.env.hostMem, Store.find (addr + 3).toNat s.env.hostMem with
  | some b0, some b1, some b2, some b3 => some (b3 ++ b2 ++ b1 ++ b0)
  | _, _, _, _ => none

/-- The pixel the background source is known to answer (20_memory.md R64). -/
def knownPixel (s : State) (x y : Nat) : Option Word := Store.find (32 * y + x) s.env.background

/-- Cell column of entry `k` of the particle table (00_scope.md R12). -/
def cellX (s : State) (k : Nat) : Nat := (readPart s k).x.toNat / 256

/-- Cell row of entry `k` of the particle table. -/
def cellY (s : State) (k : Nat) : Nat := (readPart s k).y.toNat / 256

/-- Entry `k` is inside the field (10_state.md R31). -/
def InField (s : State) (k : Nat) : Prop :=
  ((readPart s k).x.toNat : Int) ≤ xmax s ∧ ((readPart s k).y.toNat : Int) ≤ ymax s

/-- Entry `k` respects the speed bound (R31, 41_ppe.md R132). -/
def SpeedOk (s : State) (k : Nat) : Prop :=
  (readPart s k).vx.toInt * (readPart s k).vx.toInt + (readPart s k).vy.toInt * (readPart s k).vy.toInt ≤ 65536

/-- Every active particle is inside the field (10_state.md R57 (c)). -/
def Contained (s : State) : Prop := ∀ k, k < s.p.count.toNat → InField s k

/-- Every active particle respects the speed bound. -/
def SpeedBounded (s : State) : Prop := ∀ k, k < s.p.count.toNat → SpeedOk s k

/-- Invariants (a) and (b) of 10_state.md R57 over a set of obstacle cells: a bit is set if and only if an obstacle or
an active particle is there, and no cell has two occupants. -/
structure Consistent (obstacle : Nat → Nat → Bool) (s : State) : Prop where
  bits : ∀ x y, x < s.geom.w → y < s.geom.h →
    (obmBit s x y = true ↔ obstacle x y = true ∨ ∃ k, k < s.p.count.toNat ∧ cellX s k = x ∧ cellY s k = y)
  clear : ∀ k, k < s.p.count.toNat → obstacle (cellX s k) (cellY s k) = false
  apart : ∀ j k, j < s.p.count.toNat → k < s.p.count.toNat → cellX s j = cellX s k → cellY s j = cellY s k → j = k

/-- What a well-formed machine state satisfies, reached or not: legal geometry, tables within their size, the
sequencers within their ranges, reserved bits 0, memories in canonical form. -/
structure Inv (s : State) : Prop where
  /-- 00_scope.md R6. -/
  geometry : s.geom.wf = true
  /-- 10_state.md R28. -/
  count : s.p.count.toNat ≤ capacity
  /-- 10_state.md R33. -/
  staged : s.p.stgCount.toNat ≤ capacity
  /-- 10_state.md R41. -/
  row : s.c.row.toNat < scan s
  /-- 10_state.md R51, 20_memory.md R61. -/
  dma : s.c.dmaBusy = true → 0 < s.c.dmaRem.toNat ∧ s.c.dmaIdx.toNat + s.c.dmaRem.toNat ≤ fbWords s
  /-- 10_state.md R48, 43_bpd.md R192. -/
  rowCursor : s.c.rstate = 1 → s.c.rowCursor.toNat < s.geom.size
  /-- 10_state.md R52, 43_bpd.md R200. -/
  held : s.c.shCount.toNat < rowWords s → s.c.shCount.toNat % 2 = 1 → s.c.shHold.isSome = true
  /-- 20_memory.md R61: a framebuffer has no word at or above `SIZE²`. -/
  words : ∀ b k, fbWords s ≤ k → fbRead s b k = 0
  /-- 10_state.md R26: reserved bits read 0. -/
  pcfg : s.p.cfg &&& ~~~pCfgMask = 0
  /-- 10_state.md R44: reserved bits read 0. -/
  ccfg : s.c.cfg &&& ~~~cCfgMask = 0
  /-- Every memory is in its canonical form. -/
  memory : Memory.wf s = true

/-- Bits `W..31` of every bitmap word are 0 (10_state.md R35). The power-on contents need not satisfy it
(70_reset_and_hazards.md R252; log 5); a `CLRALL` establishes it. -/
def BitmapClean (s : State) : Prop := ∀ x y, s.geom.w ≤ x → y < s.geom.h → obmBit s x y = false

/-- Channel P2C is full (10_state.md R37), the true value. -/
def p2cFull (s : State) : Bool := s.p.p2cReq != s.c.p2cAck

/-- Channel C2P is full (10_state.md R38), the true value. -/
def c2pFull (s : State) : Bool := s.c.c2pReq != s.p.c2pAck

/-- How many of the four places hold the frame in flight (42_fsh.md R169). -/
def places (s : State) : Nat :=
  (p2cFull s).toNat + s.c.redrawPending.toNat + s.c.flipPending.toNat + (c2pFull s).toNat

/-- Token conservation (42_fsh.md R169) with what makes it inductive: the order of the four toggles, and what the two
chains of each domain have seen of them (R170). -/
structure Handshake (s : State) : Prop where
  /-- The equation of R169. -/
  conserved : places s = s.p.inflight.toNat
  /-- Nothing in flight: all four toggles agree. -/
  idle : s.p.inflight = false → s.p.p2cReq = s.c.p2cAck ∧ s.c.p2cAck = s.c.c2pReq ∧ s.c.c2pReq = s.p.c2pAck
  /-- "Ready" sent and not polled: the other three agree, and the word is `TOK_READY`. -/
  ready : p2cFull s = true → s.c.p2cAck = s.c.c2pReq ∧ s.c.c2pReq = s.p.c2pAck ∧ s.p.p2cData = tokReadyWord
  /-- In the display: polled and not flipped. -/
  shown : s.c.redrawPending = true ∨ s.c.flipPending = true → s.c.p2cAck ≠ s.c.c2pReq ∧ s.c.c2pReq = s.p.c2pAck
  /-- "Consumed" sent and not received: the other three agree, and the word is `TOK_CONSUMED`. -/
  consumed : c2pFull s = true → s.p.p2cReq = s.c.p2cAck ∧ s.c.p2cAck = s.c.c2pReq ∧ s.c.c2pData = tokConsumedWord
  /-- Before the poll the producer's chains have settled. -/
  seenP : s.p.inflight = false ∨ p2cFull s = true →
    s.p.p2cAckS1 = s.c.p2cAck ∧ s.p.p2cAckS2 = s.c.p2cAck ∧ s.p.c2pReqS1 = s.c.c2pReq ∧ s.p.c2pReqS2 = s.c.c2pReq
  /-- Before the flip nothing of `c2p_req` is on the way. -/
  seenReq : s.c.redrawPending = true ∨ s.c.flipPending = true →
    s.p.c2pReqS1 = s.c.c2pReq ∧ s.p.c2pReqS2 = s.c.c2pReq
  /-- Once the flip is seen, so is the poll before it. -/
  orderP : c2pFull s = true →
    (s.p.c2pReqS1 = s.c.c2pReq → s.p.p2cAckS1 = s.c.p2cAck) ∧
    (s.p.c2pReqS2 = s.c.c2pReq → s.p.p2cAckS2 = s.c.p2cAck ∧ s.p.c2pReqS1 = s.c.c2pReq)
  /-- The second flop of a chain is behind the first. -/
  behindP : s.p.p2cAckS2 = s.c.p2cAck → s.p.p2cAckS1 = s.c.p2cAck
  /-- From the poll to the receive the consumer's chains have settled. -/
  seenC : p2cFull s = false → s.p.inflight = true →
    s.c.p2cReqS1 = s.p.p2cReq ∧ s.c.p2cReqS2 = s.p.p2cReq ∧ s.c.c2pAckS1 = s.p.c2pAck ∧ s.c.c2pAckS2 = s.p.c2pAck
  /-- Before the send nothing of `p2c_req` is on the way. -/
  seenAck : s.p.inflight = false → s.c.p2cReqS1 = s.p.p2cReq ∧ s.c.p2cReqS2 = s.p.p2cReq
  /-- Once the send is seen, so is the receive before it. -/
  orderC : p2cFull s = true →
    (s.c.p2cReqS1 = s.p.p2cReq → s.c.c2pAckS1 = s.p.c2pAck) ∧
    (s.c.p2cReqS2 = s.p.p2cReq → s.c.c2pAckS2 = s.p.c2pAck ∧ s.c.p2cReqS1 = s.p.p2cReq)
  /-- The second flop of a chain is behind the first. -/
  behindC : s.c.c2pAckS2 = s.p.c2pAck → s.c.c2pAckS1 = s.p.c2pAck

/-- Entry `k` has been moved as `m` says (41_ppe.md R137): the entry's position and velocity, its bit in the bitmap, and
nothing else of the table and of the bitmap. -/
structure MovedTo (k : Nat) (m : Motion) (s t : State) : Prop where
  entry : readPart t k =
    { readPart s k with
      x := BitVec.ofInt 16 m.nx, y := BitVec.ofInt 16 m.ny, vx := BitVec.ofInt 16 m.vx, vy := BitVec.ofInt 16 m.vy }
  others : ∀ j, j ≠ k → readPart t j = readPart s j
  bits : ∀ x y, obmBit t x y =
    if x = cellOf m.nx ∧ y = cellOf m.ny then true
    else if x = cellX s k ∧ y = cellY s k then false
    else obmBit s x y

/-- One interleaving of the agents through a slot with no redraw slice (43_bpd.md R182, R199, R200): `C` up to its poll, the
whole DMA transfer, `C` up to `C.WAITSTROBE`, the shift-out of the row and of the two dummy words, the end of the pulse
before, then the latch. -/
def slotSchedule (s : State) : List Action :=
  [.agentC, .agentC, .agentC] ++ List.replicate (rowWords s) .agentDma ++ [.agentC, .agentC, .agentC]
    ++ List.replicate (rowWords s + 2) .agentSh ++ [.agentRs, .agentC, .agentC]

/-- The line that scan row `row` shows in plane `b`, from the front buffer (R201, R203). -/
def frontLine (s : State) (row : Nat) (b : BitVec 3) : List (BitVec 6) :=
  (List.range s.geom.size).map fun x =>
    column (fbRead s s.c.front (row * rowWords s + 2 * x)) (fbRead s s.c.front (row * rowWords s + 2 * x + 1)) b

/-- Agent `P` takes `n` steps in its sequencer, nothing else stepping. -/
def producerRun : Nat → State → Host.Outcome State Fault Refusal
  | 0, s => .next s
  | n + 1, s =>
    match exec (decodeProducer s.p.pphase) s with
    | .next t => producerRun n t
    | .fault f => .fault f
    | .refused r => .refused r

/-- Agent `C` takes `n` steps in its sequencer, nothing else stepping. -/
def consumerRun : Nat → State → Host.Outcome State Fault Refusal
  | 0, s => .next s
  | n + 1, s =>
    match exec (decodeConsumer s.c.cphase) s with
    | .next t => consumerRun n t
    | .fault f => .fault f
    | .refused r => .refused r

end Sys2Proof.Machine
end

