-- ==== Sys2Proof/Certificates/Slice0/Obligations.lean ====
section
/-! DEFINITION. What is claimed of the model, for the provers: one proposition each, from the numbered rules of spec/. -/

open Sys2Proof Sys2Proof.Machine Sys2Proof.Config

/-- Decode and encode agree on every word of every carrier. A word on a carrier decodes to an operation exactly when
the operation has a code of its own and is encoded as that word on that carrier, or the word is one of the cphase
codes 12 to 15 and the operation is C.HALTED. Every other word on every carrier is rejected. (30_encoding.md R90,
30_encoding.md R94, 30_encoding.md R95, 30_encoding.md R96, 30_encoding.md R97, 30_encoding.md R103, 30_encoding.md
R104) -/
def Obligations.DecodeInvertsEncode : Prop :=
  ∀ (e : Encoded) (i : Instr),
    decode e = .ok i ↔
      i.wf = true ∧ (encode i = e ∨ (i = .cHalted ∧ ∃ code : BitVec 4, e = .cphase code ∧ 12 ≤ code.toNat))

/-- A few words, written out from the encoding tables, decode to their operations. One word of each carrier and of
each unit of format H, bit by bit from the tables, decodes to its operation; a reserved bit, an unlisted opcode, slice
code 3 and a token in the wrong direction are rejected. (30_encoding.md R91, 30_encoding.md R94, 30_encoding.md R95,
30_encoding.md R96, 30_encoding.md R97, 30_encoding.md R103, 30_encoding.md R104) -/
def Obligations.SpecWordsDecode : Prop :=
  decode (.command 0b00000000_00000000_00000000_00000010#32) = .ok .obmClr ∧
  decode (.command 0b00000000_00000000_00000000_00010011#32) = .ok .ppeIter ∧
  decode (.command 0b00000000_00000000_00000000_00100001#32) = .ok .fshWaitcons ∧
  decode (.pphase 0b011#3) = .ok .pAccel ∧
  decode (.cphase 0b1010#4) = .ok .cFlip ∧
  decode (.cphase 0b1110#4) = .ok .cHalted ∧
  decode (.rstate 0b10#2) = .ok .sliceParticles ∧
  decode (.p2c 0x0000_0001) = .ok .tokReady ∧
  decode (.c2p 0x0000_0002) = .ok .tokConsumed ∧
  decode (.command 0x0000_0113) = .error (.reservedBits 0x0000_0113) ∧
  decode (.command 0x0000_0005) = .error (.unlistedOpcode 0x0000_0005) ∧
  decode (.rstate 0b11#2) = .error .sliceCode3 ∧
  decode (.p2c 0x0000_0002) = .error (.notToken 0x0000_0002) ∧
  decode (.c2p 0x0000_0001) = .error (.notToken 0x0000_0001)

/-- A step runs the operation that its carrier decodes to. When the next act is a write of P_CMD whose word decodes to
i, step is exec of i with that act taken. When it is a turn of agent P or of agent C, step is exec of what pphase or
cphase decodes to. When no act is listed, the act is a free one (the model choice of log 1). (00_scope.md R11,
30_encoding.md R90, 30_encoding.md R95, 30_encoding.md R96, 20_memory.md R78) -/
def Obligations.StepRunsDecodedOperation : Prop :=
  (∀ (s : State) (rest : List Action) (w : Word) (i : Instr),
    s.env.sched = .hostP (.write .word 0 w) :: rest → decode (.command w) = .ok i →
      step s = exec i { s with env.sched := rest }) ∧
  (∀ (s : State) (rest : List Action), s.env.sched = .agentP :: rest →
    ∃ i, decode (.pphase s.p.pphase) = .ok i ∧ step s = exec i { s with env.sched := rest }) ∧
  (∀ (s : State) (rest : List Action), s.env.sched = .agentC :: rest →
    ∃ i, decode (.cphase s.c.cphase) = .ok i ∧ step s = exec i { s with env.sched := rest }) ∧
  (∀ s : State, s.env.sched = [] →
    step s = step { s with env.sched := [Config.freeAction s.env.fresh], env.fresh := s.env.fresh + 1 })

/-- A P_CMD word with an unlisted opcode or a reserved bit raises F_BADCMD and executes nothing. When the producer
domain is idle and the host writes to P_CMD a word with a non-zero bit in 31:8 or an OPC that is not one of the
thirteen listed ones, the step records code 5 with word[23:0], halts the producer domain, and changes nothing else.
(60_exceptions.md R227) -/
def Obligations.IllegalCommandFaults : Prop :=
  ∀ (s : State) (rest : List Action) (w : Word),
    s.env.sched = .hostP (.write .word 0 w) :: rest → Idle s →
    (w.extractLsb' 8 24 ≠ 0 ∨
      w.extractLsb' 0 8 ∉ ([0x00, 0x01, 0x02, 0x03, 0x04, 0x10, 0x11, 0x12, 0x13, 0x14, 0x15, 0x20, 0x21]
        : List (BitVec 8))) →
    step s = .next { s with
      env.sched := rest, p.fault := w.extractLsb' 0 24 ++ 5#8, p.halt := true, p.busy := false, p.pphase := 7 }

/-- Any word written to P_CMD while BUSY = 1 and HALT = 0 raises F_OVERRUN. Whatever the word, legal or not: the step
records code 6 with word[23:0] and halts the producer domain; the command in progress is abandoned and nothing else
changes. (60_exceptions.md R228) -/
def Obligations.CommandWhileBusyOverruns : Prop :=
  ∀ (s : State) (rest : List Action) (w : Word),
    s.env.sched = .hostP (.write .word 0 w) :: rest → s.p.halt = false → s.p.busy = true →
    step s = .next { s with
      env.sched := rest, p.fault := w.extractLsb' 0 24 ++ 6#8, p.halt := true, p.busy := false, p.pphase := 7 }

/-- NOP completes and changes nothing but what accepting a command latches. In an idle producer domain NOP answers the
state in which the operands and the opcode are latched (the implied state of log 8) and the sequencer is idle; no
other state changes and no fault is raised. (41_ppe.md R142, 30_encoding.md R98) -/
def Obligations.NopOnlyRuns : Prop :=
  ∀ s : State, Idle s → exec .nop s = .next (ranCommand 0x00 s)

/-- OBM.SET and OBM.CLR write the bit of one cell, or raise F_RANGE outside the field. In an idle producer domain with
a legal geometry: for a cell of the field (P_ARG0, P_ARG1) OBM.SET sets exactly the bit of that cell and OBM.CLR
clears it, and nothing else of the state changes but what every command latches. For any other full 32-bit coordinate
each raises F_RANGE with the low 12 bits of both, and the bitmap keeps its contents. (40_obm.md R111, 40_obm.md R112)
-/
def Obligations.SetAndClearWriteOneBit : Prop :=
  decode (.command 0x0000_0001) = .ok .obmSet ∧ decode (.command 0x0000_0002) = .ok .obmClr ∧
  ∀ s : State, Idle s → s.geom.wf = true →
    (s.p.arg0.toNat < s.geom.w ∧ s.p.arg1.toNat < s.geom.h →
      (∃ t, exec .obmSet s = .next t ∧ t = { ranCommand 0x01 s with p.obm := t.p.obm } ∧
        ∀ x y, obmBit t x y = if x = s.p.arg0.toNat ∧ y = s.p.arg1.toNat then true else obmBit s x y) ∧
      (∃ t, exec .obmClr s = .next t ∧ t = { ranCommand 0x02 s with p.obm := t.p.obm } ∧
        ∀ x y, obmBit t x y = if x = s.p.arg0.toNat ∧ y = s.p.arg1.toNat then false else obmBit s x y)) ∧
    (s.geom.w ≤ s.p.arg0.toNat ∨ s.geom.h ≤ s.p.arg1.toNat →
      exec .obmSet s =
        .next (faultedCommand 0x01 4 (s.p.arg1.extractLsb' 0 12 ++ s.p.arg0.extractLsb' 0 12) s) ∧
      exec .obmClr s =
        .next (faultedCommand 0x02 4 (s.p.arg1.extractLsb' 0 12 ++ s.p.arg0.extractLsb' 0 12) s))

/-- OBM.GET puts the bit of one cell in P_RESULT and changes no bitmap bit, or raises F_RANGE. In an idle producer
domain OBM.GET of a cell of the field leaves 0 or 1 in P_RESULT and changes nothing else but what every command
latches; outside the field it raises F_RANGE and P_RESULT keeps its value. The primitive hands the same bit to the
operation that called it, or raises the same fault. (40_obm.md R110) -/
def Obligations.GetReadsOneBit : Prop :=
  decode (.command 0x0000_0003) = .ok .obmGet ∧
  (∀ s : State, Idle s →
    (s.p.arg0.toNat < s.geom.w ∧ s.p.arg1.toNat < s.geom.h →
      exec .obmGet s = .next { ranCommand 0x03 s with
        p.result := if obmBit s s.p.arg0.toNat s.p.arg1.toNat then 1 else 0 }) ∧
    (s.geom.w ≤ s.p.arg0.toNat ∨ s.geom.h ≤ s.p.arg1.toNat →
      exec .obmGet s =
        .next (faultedCommand 0x03 4 (s.p.arg1.extractLsb' 0 12 ++ s.p.arg0.extractLsb' 0 12) s))) ∧
  (∀ (s : State) (cx cy : Nat) (rest : Bool → Result),
    obmGet cx cy rest s =
      if cx < s.geom.w ∧ cy < s.geom.h then rest (obmBit s cx cy)
      else .raised (raiseP 4 (BitVec.ofNat 12 cy ++ BitVec.ofNat 12 cx) s))

/-- OBM.CLRALL and PPE.CLRALL clear every row of the field and nothing else. In an idle producer domain each completes
with every row 0..H-1 of the bitmap equal to 0; the particle table, count, the staging table and every flag are as
before. (40_obm.md R113, 41_ppe.md R125) -/
def Obligations.ClearAllZeroesTheBitmap : Prop :=
  decode (.command 0x0000_0004) = .ok .obmClrall ∧ decode (.command 0x0000_0012) = .ok .ppeClrall ∧
  ∀ s : State, Idle s →
    (∃ t, exec .obmClrall s = .next t ∧ t = { ranCommand 0x04 s with p.obm := t.p.obm } ∧
      ∀ y, obmRow t y = if y < s.geom.h then 0 else obmRow s y) ∧
    (∃ t, exec .ppeClrall s = .next t ∧ t = { ranCommand 0x12 s with p.obm := t.p.obm } ∧
      ∀ y, obmRow t y = if y < s.geom.h then 0 else obmRow s y)

/-- PPE.LDBG sets the bit of every non-zero pixel, clears none, and touches nothing else. In an idle producer domain
with a legal geometry and an aligned base, PPE.LDBG completes whatever host memory answers: no bit is cleared, no bit
outside the field changes, and nothing but the bitmap and the free answers consumed is changed. If the W*H words of
the image are known, exactly the bits of the cells whose word is not 0 are set in addition, and no free answer is
consumed. (41_ppe.md R123, 20_memory.md R63, 20_memory.md R67, 20_memory.md R68) -/
def Obligations.LoadBackgroundMarksObstacles : Prop :=
  ∀ s : State, Idle s → s.geom.wf = true → s.p.arg0.extractLsb' 0 2 = 0 →
    (∃ t, exec .ppeLdbg s = .next t ∧
      t = { ranCommand 0x10 s with p.obm := t.p.obm, env.oracle := t.env.oracle, env.fresh := t.env.fresh } ∧
      ∀ x y, (obmBit s x y = true → obmBit t x y = true) ∧
        (s.geom.w ≤ x ∨ s.geom.h ≤ y → obmBit t x y = obmBit s x y)) ∧
    ((∀ k, k < s.geom.h * s.geom.w → (knownWord s (s.p.arg0 + BitVec.ofNat 32 (4 * k))).isSome = true) →
      ∃ t, exec .ppeLdbg s = .next t ∧ t = { ranCommand 0x10 s with p.obm := t.p.obm } ∧
        ∀ x y, obmBit t x y =
          (obmBit s x y || decide (x < s.geom.w ∧ y < s.geom.h ∧
            knownWord s (s.p.arg0 + BitVec.ofNat 32 (4 * (y * s.geom.w + x))) ≠ some 0)))

/-- F_CAPACITY and F_ALIGN of the load commands come before any read and write. In an idle producer domain: PPE.LDPART
with a count above 512 raises F_CAPACITY whatever its base; with a count of at most 512 and a misaligned base it
raises F_ALIGN; PPE.LDBG with a misaligned base raises F_ALIGN. Nothing but the fault entry and what every command
latches changes; no free answer is consumed. (60_exceptions.md R222, 60_exceptions.md R231) -/
def Obligations.LoadsCheckCapacityThenAlignment : Prop :=
  ∀ s : State, Idle s →
    (512 < s.p.arg1.toNat →
      exec .ppeLdpart s = .next (faultedCommand 0x11 1 (s.p.arg1.extractLsb' 0 24) s)) ∧
    (s.p.arg1.toNat ≤ 512 → s.p.arg0.extractLsb' 0 2 ≠ 0 →
      exec .ppeLdpart s = .next (faultedCommand 0x11 8 (s.p.arg0.extractLsb' 0 24) s)) ∧
    (s.p.arg0.extractLsb' 0 2 ≠ 0 →
      exec .ppeLdbg s = .next (faultedCommand 0x10 8 (s.p.arg0.extractLsb' 0 24) s))

/-- PPE.LDPART places every triple at the centre of its cell, at rest, marks the cells and sets count. In an idle
producer domain with a legal geometry, n = P_ARG1 at most 512, an aligned base, and 3n known words that all name cells
of the field, PPE.LDPART completes: count is n, entries below n hold the triples, entries from n on are as before, the
bits of the named cells are set in addition, and nothing else changes. (41_ppe.md R124, 20_memory.md R63, 20_memory.md
R67, 20_memory.md R68) -/
def Obligations.LoadParticlesFillsTheTable : Prop :=
  ∀ (s : State) (cx cy col : Nat → Word), Idle s → s.geom.wf = true → s.p.arg1.toNat ≤ 512 →
    s.p.arg0.extractLsb' 0 2 = 0 →
    (∀ k, k < s.p.arg1.toNat →
      knownWord s (s.p.arg0 + BitVec.ofNat 32 (12 * k)) = some (cx k) ∧
      knownWord s (s.p.arg0 + BitVec.ofNat 32 (12 * k + 4)) = some (cy k) ∧
      knownWord s (s.p.arg0 + BitVec.ofNat 32 (12 * k + 8)) = some (col k) ∧
      (cx k).toNat < s.geom.w ∧ (cy k).toNat < s.geom.h) →
    ∃ t, exec .ppeLdpart s = .next t ∧
      t = { ranCommand 0x11 s with
        p.part := t.p.part, p.obm := t.p.obm, p.count := BitVec.ofNat 10 s.p.arg1.toNat } ∧
      (∀ k, k < s.p.arg1.toNat → readPart t k =
        ⟨BitVec.ofNat 16 ((cx k).toNat * 256 + 128), BitVec.ofNat 16 ((cy k).toNat * 256 + 128), 0, 0, col k⟩) ∧
      (∀ k, s.p.arg1.toNat ≤ k → readPart t k = readPart s k) ∧
      (∀ x y, obmBit t x y = true ↔
        obmBit s x y = true ∨ ∃ k, k < s.p.arg1.toNat ∧ (cx k).toNat = x ∧ (cy k).toNat = y)

/-- PPE.LDPART raises F_RANGE at the first triple outside the field, with the entries before it written. In an idle
producer domain with a legal geometry, n at most 512 and an aligned base: if the triples below m are known and in the
field and triple m < n is known and outside it, PPE.LDPART raises F_RANGE with the low 12 bits of its coordinates; the
entries below m and their bits are written, count and everything else keep their values. (41_ppe.md R124,
60_exceptions.md R225, 60_exceptions.md R235) -/
def Obligations.LoadParticlesStopsAtBadTriple : Prop :=
  ∀ (s : State) (cx cy col : Nat → Word) (m : Nat), Idle s → s.geom.wf = true → s.p.arg1.toNat ≤ 512 →
    s.p.arg0.extractLsb' 0 2 = 0 → m < s.p.arg1.toNat →
    (∀ k, k ≤ m →
      knownWord s (s.p.arg0 + BitVec.ofNat 32 (12 * k)) = some (cx k) ∧
      knownWord s (s.p.arg0 + BitVec.ofNat 32 (12 * k + 4)) = some (cy k) ∧
      knownWord s (s.p.arg0 + BitVec.ofNat 32 (12 * k + 8)) = some (col k)) →
    (∀ k, k < m → (cx k).toNat < s.geom.w ∧ (cy k).toNat < s.geom.h) →
    (s.geom.w ≤ (cx m).toNat ∨ s.geom.h ≤ (cy m).toNat) →
    ∃ t, exec .ppeLdpart s = .next t ∧
      t = { faultedCommand 0x11 4 ((cy m).extractLsb' 0 12 ++ (cx m).extractLsb' 0 12) s with
        p.part := t.p.part, p.obm := t.p.obm } ∧
      (∀ k, k < m → readPart t k =
        ⟨BitVec.ofNat 16 ((cx k).toNat * 256 + 128), BitVec.ofNat 16 ((cy k).toNat * 256 + 128), 0, 0, col k⟩) ∧
      (∀ k, m ≤ k → readPart t k = readPart s k) ∧
      (∀ x y, obmBit t x y = true ↔
        obmBit s x y = true ∨ ∃ k, k < m ∧ (cx k).toNat = x ∧ (cy k).toNat = y)

/-- PPE.ITER completes with every particle inside the field and within the speed bound. In an idle producer domain
with nothing in flight, a legal geometry, count at most 512 and every active particle inside the field, PPE.ITER
completes for every tilt, every configuration and every sequence of draws: every active particle is inside the field
and vx*vx + vy*vy is at most 65536; the colours are the same up to order, entries from count on are as before; only
the table, the bitmap, the working registers and the free answers consumed change. (41_ppe.md R126, 41_ppe.md R141,
41_ppe.md R144, 10_state.md R31) -/
def Obligations.IterateContainsAndBoundsSpeed : Prop :=
  ∀ s : State, Idle s → s.p.inflight = false → s.geom.wf = true → s.p.count.toNat ≤ 512 → Contained s →
    ∃ t, exec .ppeIter s = .next t ∧
      t = { ranCommand 0x13 s with
        p.part := t.p.part, p.obm := t.p.obm, p.work := t.p.work
        env.oracle := t.env.oracle, env.fresh := t.env.fresh } ∧
      Contained t ∧ SpeedBounded t ∧
      (∀ k, s.p.count.toNat ≤ k → readPart t k = readPart s k) ∧
      List.Perm ((activeParts t).map fun q => q.color) ((activeParts s).map fun q => q.color)

/-- On fields at least 3 wide, PPE.ITER keeps the bitmap equal to obstacles plus particle cells. For every set of
obstacle cells: in an idle producer domain with nothing in flight, a legal geometry with W at least 3, count at most
512, every active particle inside the field and the bitmap consistent (a bit is set exactly where an obstacle or an
active particle is, and no cell has two occupants), PPE.ITER completes and the bitmap is consistent with the new
positions and the same obstacles. (41_ppe.md R141, 41_ppe.md R134, 41_ppe.md R137, 41_ppe.md R143, 10_state.md R57,
70_reset_and_hazards.md R264) -/
def Obligations.IterateKeepsBitmapConsistent : Prop :=
  ∀ (obstacle : Nat → Nat → Bool) (s : State), Idle s → s.p.inflight = false → s.geom.wf = true → 3 ≤ s.geom.w →
    s.p.count.toNat ≤ 512 → Contained s → Consistent obstacle s →
    ∃ t, exec .ppeIter s = .next t ∧ t.p.count = s.p.count ∧ Consistent obstacle t

/-- PPE.ITER, PPE.SNAP and FSH.SENDRDY raise F_GATE while a frame is in flight and execute nothing. In a producer
domain that accepts a command while inflight is 1, each of the three records code 7 with its opcode, halts the
producer domain, and changes nothing else but what every command latches. (60_exceptions.md R232) -/
def Obligations.GateFaultsWhileInFlight : Prop :=
  ∀ s : State, Idle s → s.p.inflight = true →
    exec .ppeIter s = .next (faultedCommand 0x13 7 0x13 s) ∧
    exec .ppeSnap s = .next (faultedCommand 0x14 7 0x14 s) ∧
    exec .fshSendrdy s = .next (faultedCommand 0x20 7 0x20 s)

/-- The source scenario on a 2 x 1 field: one tick of (128, 0, 0) moves the particle right, inside the field. W = 2, H
= 1, one particle at rest at the centre of cell (0,0), no obstacle in cell (1,0), elasticity 128, SCALE at least 12,
tilt (128, 0, 0): PPE.ITER completes, and for every draw x is between 128 + tdiv(128*SCALE,256) - 5 and that plus 10,
hence above 128 and at most 511. (90_conflicts.md C8, 95_test_vectors.md T6, 41_ppe.md R128, 41_ppe.md R131, 41_ppe.md
R133) -/
def Obligations.FlatGravityMovesRight : Prop :=
  ∀ (s : State) (color : Word), Idle s → s.p.inflight = false → s.geom.w = 2 → s.geom.h = 1 → s.p.count = 1 →
    readPart s 0 = ⟨128, 128, 0, 0, color⟩ → obmBit s 1 0 = false → 12 ≤ cfgScale s → cfgElasticity s = 128 →
    s.p.arg0 = 128 → s.p.arg1 = 0 → s.p.arg2 = 0 →
    ∃ t, exec .ppeIter s = .next t ∧
      128 + 128 * cfgScale s / 256 - 5 ≤ (readPart t 0).x.toNat ∧
      (readPart t 0).x.toNat ≤ 128 + 128 * cfgScale s / 256 + 5 ∧
      128 < (readPart t 0).x.toNat ∧ (readPart t 0).x.toNat ≤ 511

/-- PPE.SNAP copies position and colour of every active particle to the staging table. In an idle producer domain with
nothing in flight and count at most 512, PPE.SNAP completes: staging entries below count hold x, y and colour of the
particles, the others are as before, stg_count is count, and nothing else changes. (41_ppe.md R139, 10_state.md R33)
-/
def Obligations.SnapshotCopiesActiveEntries : Prop :=
  ∀ s : State, Idle s → s.p.inflight = false → s.p.count.toNat ≤ 512 →
    ∃ t, exec .ppeSnap s = .next t ∧
      t = { ranCommand 0x14 s with p.stg := t.p.stg, p.stgCount := s.p.count } ∧
      ∀ k, stgRead t k =
        if k < s.p.count.toNat then ⟨(readPart s k).x, (readPart s k).y, (readPart s k).color⟩ else stgRead s k

/-- PPE.TICK with nothing in flight is PPE.ITER, PPE.SNAP and FSH.SENDRDY in sequence. In an idle producer domain with
nothing in flight, a legal geometry, count at most 512 and every active particle inside the field: PPE.ITER and then
PPE.SNAP complete (from the same state with LAST_TIMEOUT cleared). If the P2C slot is seen empty PPE.TICK completes,
and its state is theirs with the ready token sent and inflight set; if it is seen full PPE.TICK has iterated and
staged the same and is in P.WAIT for the slot, BUSY still 1, with nothing sent. (41_ppe.md R140, 42_fsh.md R163,
42_fsh.md R161, 42_fsh.md R170) -/
def Obligations.TickIsIterateSnapSend : Prop :=
  ∀ s : State, Idle s → s.p.inflight = false → s.geom.wf = true → s.p.count.toNat ≤ 512 → Contained s →
    ∃ u v, exec .ppeIter { s with p.lastTimeout := false } = .next u ∧ exec .ppeSnap u = .next v ∧
      (p2cFullSeen s = false → exec .ppeTick s = .next { v with
        p.opc := 0x15, p.p2cData := 1, p.p2cReq := !s.p.p2cReq, p.inflight := true }) ∧
      (p2cFullSeen s = true → exec .ppeTick s = .next { v with p.opc := 0x15, p.busy := true, p.pphase := 6 })

/-- PPE.TICK with a frame in flight never raises F_GATE: it waits, or takes the visible token. In a producer domain
that accepts a command while inflight is 1: with no token visible in C2P, PPE.TICK is in P.WAIT and nothing else has
changed; with TOK_CONSUMED visible it takes it and goes on to iterate (by micro-operations, the model choice of log
3); with any other word visible it empties the slot and raises F_BADTOKEN. (41_ppe.md R140, 42_fsh.md R164, 42_fsh.md
R168, 60_exceptions.md R233) -/
def Obligations.TickWaitsWhileInFlight : Prop :=
  ∀ s : State, Idle s → s.p.inflight = true →
    (c2pAvail s = false →
      exec .ppeTick s = .next { ranCommand 0x15 s with p.busy := true, p.pphase := 6 }) ∧
    (c2pAvail s = true → s.c.c2pData = 2 →
      exec .ppeTick s = .next { ranCommand 0x15 s with
        p.busy := true, p.pphase := 1, p.c2pAck := !s.p.c2pAck, p.inflight := false, p.lastTimeout := false }) ∧
    (c2pAvail s = true → s.c.c2pData ≠ 2 →
      exec .ppeTick s =
        .next { faultedCommand 0x15 9 (s.c.c2pData.extractLsb' 0 24) s with p.c2pAck := !s.p.c2pAck })

/-- FSH.SENDRDY sends the ready token once the slot is seen empty, and waits otherwise. In an idle producer domain
with nothing in flight: if P2C is seen empty the token word, the request toggle and inflight are written and the
command completes; if it is seen full the command is in P.WAIT with nothing else changed. (42_fsh.md R163, 42_fsh.md
R161) -/
def Obligations.SendReadyFillsTheSlot : Prop :=
  ∀ s : State, Idle s → s.p.inflight = false →
    (p2cFullSeen s = false →
      exec .fshSendrdy s = .next { ranCommand 0x20 s with
        p.p2cData := 1, p.p2cReq := !s.p.p2cReq, p.inflight := true }) ∧
    (p2cFullSeen s = true →
      exec .fshSendrdy s = .next { ranCommand 0x20 s with p.busy := true, p.pphase := 6 })

/-- FSH.WAITCONS: nothing outstanding, the token visible, another word visible, or the wait. In an idle producer
domain: with nothing in flight FSH.WAITCONS clears LAST_TIMEOUT and completes without looking at the channel; with a
frame in flight it takes a visible TOK_CONSUMED and completes, raises F_BADTOKEN on another visible word after
emptying the slot, and is in P.WAIT when none is visible. (42_fsh.md R164, 60_exceptions.md R233) -/
def Obligations.WaitConsumedReturnsOrWaits : Prop :=
  ∀ s : State, Idle s →
    (s.p.inflight = false → exec .fshWaitcons s = .next { ranCommand 0x21 s with p.lastTimeout := false }) ∧
    (s.p.inflight = true → c2pAvail s = true → s.c.c2pData = 2 →
      exec .fshWaitcons s = .next { ranCommand 0x21 s with
        p.c2pAck := !s.p.c2pAck, p.inflight := false, p.lastTimeout := false }) ∧
    (s.p.inflight = true → c2pAvail s = true → s.c.c2pData ≠ 2 →
      exec .fshWaitcons s =
        .next { faultedCommand 0x21 9 (s.c.c2pData.extractLsb' 0 24) s with p.c2pAck := !s.p.c2pAck }) ∧
    (s.p.inflight = true → c2pAvail s = false →
      exec .fshWaitcons s = .next { ranCommand 0x21 s with p.busy := true, p.pphase := 6 })

/-- P.WAIT: a visible token always wins; without one the wait goes on or times out, the choice being free. In a
producer domain that is not halted, with a frame in flight: a visible TOK_CONSUMED ends the wait (a PPE.TICK goes on
at P.SCALE by micro-operations, the model choice of log 3; any other command completes; which of the two is read from
the latched opcode, the deduction of log 18); another visible word raises F_BADTOKEN; with none visible the free
choice either leaves the wait as it is or sets LAST_TIMEOUT and WARN_TIMEOUT, counts the dropped frame and completes
with inflight still 1. With nothing in flight a waiting FSH.SENDRDY or PPE.TICK sends once the slot is seen empty; any
other latched command has nothing to wait for and completes, clearing LAST_TIMEOUT, as wait_consumed does (log 18).
(42_fsh.md R163, 42_fsh.md R164, 42_fsh.md R165, 60_exceptions.md R226, 60_exceptions.md R233, 41_ppe.md R140) -/
def Obligations.WaitStepTakesTokenOrTimesOut : Prop :=
  ∀ s : State, s.p.halt = false →
    (s.p.inflight = true → c2pAvail s = true → s.c.c2pData = 2 →
      (s.p.opc ≠ 0x15 → exec .pWait s = .next { s with
        p.c2pAck := !s.p.c2pAck, p.inflight := false, p.lastTimeout := false
        p.busy := false, p.pphase := 0, p.i := 0 }) ∧
      (s.p.opc = 0x15 → exec .pWait s = .next { s with
        p.c2pAck := !s.p.c2pAck, p.inflight := false, p.lastTimeout := false, p.pphase := 1, p.i := 0 })) ∧
    (s.p.inflight = true → c2pAvail s = true → s.c.c2pData ≠ 2 →
      exec .pWait s = .next { s with
        p.c2pAck := !s.p.c2pAck, p.fault := s.c.c2pData.extractLsb' 0 24 ++ 9#8
        p.halt := true, p.busy := false, p.pphase := 7 }) ∧
    (s.p.inflight = true → c2pAvail s = false →
      ((choose s).1 = true → exec .pWait s = .next { (choose s).2 with
        p.lastTimeout := true, p.warnTimeout := true, p.dropCnt := s.p.dropCnt + 1
        p.busy := false, p.pphase := 0, p.i := 0 }) ∧
      ((choose s).1 = false → exec .pWait s = .next (choose s).2)) ∧
    (s.p.inflight = false → s.p.opc = 0x20 ∨ s.p.opc = 0x15 →
      (p2cFullSeen s = false → exec .pWait s = .next { s with
        p.p2cData := 1, p.p2cReq := !s.p.p2cReq, p.inflight := true, p.busy := false, p.pphase := 0, p.i := 0 }) ∧
      (p2cFullSeen s = true → exec .pWait s = .next { s with p.pphase := 6 })) ∧
    (s.p.inflight = false → s.p.opc ≠ 0x20 → s.p.opc ≠ 0x15 →
      exec .pWait s = .next { s with p.lastTimeout := false, p.busy := false, p.pphase := 0, p.i := 0 })

/-- P.IDLE, P.HALTED, C.OFF and C.HALTED leave every state as it is. In every state a turn of agent P at P.IDLE or
P.HALTED, and of agent C at C.OFF or C.HALTED, changes nothing. (41_ppe.md R120, 43_bpd.md R183, 60_exceptions.md
R230, 30_encoding.md R95, 30_encoding.md R96) -/
def Obligations.RestingPhasesHaveNoStep : Prop :=
  ∀ s : State, exec .pIdle s = .next s ∧ exec .pHalted s = .next s ∧ exec .cOff s = .next s ∧
    exec .cHalted s = .next s

/-- P.SCALE computes ax2, ay2, az2 and jmax by the formula, in their ranges, and writes only working registers. In a
producer domain that is not halted, P.SCALE answers the state in which the working registers ax2, ay2, az2, jmax hold
the values of the formula over the sign-extended low 16 bits of the sampled operands and SCALE, with the ranges the
rule gives; the sequencer is at P.SORT and nothing else changes. (41_ppe.md R128) -/
def Obligations.ScaleFollowsTheFormula : Prop :=
  decode (.pphase 1) = .ok .pScale ∧
  ∀ s : State, s.p.halt = false →
    let scale : Int := (s.p.cfg.extractLsb' 0 8).toNat
    let ax1 : Int := Int.tdiv ((s.p.x0.extractLsb' 0 16).toInt * scale) 256
    let ay1 : Int := Int.tdiv ((s.p.x1.extractLsb' 0 16).toInt * scale) 256
    let az1 : Int := (Int.tdiv ((s.p.x2.extractLsb' 0 16).toInt * scale) 2048).natAbs
    let az2 : Int := max 1 (5 - az1)
    ax1 ≥ -32640 ∧ ax1 ≤ 32639 ∧ ay1 ≥ -32640 ∧ ay1 ≤ 32639 ∧ az1 ≤ 4080 ∧ 1 ≤ az2 ∧ az2 ≤ 5 ∧
    exec .pScale s = .next { s with
      p.pphase := 2
      p.work := { s.p.work with ax2 := ax1 - az2, ay2 := ay1 - az2, az2 := az2.toNat, jmax := (2 * az2).toNat } }

/-- P.SORT rearranges the active entries stably so that the key does not increase, or passes through. In a producer
domain that is not halted, with count at most 512: with SORT_EN = 0 P.SORT only moves the sequencer on. With SORT_EN =
1 the active entries are a permutation of what they were, the key along the direction of (ax2, ay2) does not increase
with the index, entries of equal key keep their order, entries from count on are as before, and only the table, dx, dy
and the sequencer position change. (41_ppe.md R129, 41_ppe.md R130, 10_state.md R25, 10_state.md R26) -/
def Obligations.SortIsAStablePermutation : Prop :=
  ∀ s : State, s.p.halt = false → s.p.count.toNat ≤ 512 →
    (s.p.cfg.getLsbD 16 = false → exec .pSort s = .next (toVelocity s)) ∧
    (s.p.cfg.getLsbD 16 = true →
      let d := sortDirection s.p.work.ax2 s.p.work.ay2
      ∃ t, exec .pSort s = .next t ∧
        t = toVelocity { s with p.part := t.p.part, p.work := { s.p.work with dx := d.1, dy := d.2 } } ∧
        List.Perm (activeParts t) (activeParts s) ∧
        (activeParts t).Pairwise (fun q r => sortKey d.1 d.2 r ≤ sortKey d.1 d.2 q) ∧
        (∀ key : Int, (activeParts t).filter (fun q => sortKey d.1 d.2 q = key) =
          (activeParts s).filter (fun q => sortKey d.1 d.2 q = key)) ∧
        (∀ k, s.p.count.toNat ≤ k → readPart t k = readPart s k))

/-- The sort direction is the one of the eight whose angle to the acceleration is smallest. For every acceleration
that is not zero the direction is one of the eight, its inner product with the acceleration is positive, and no other
of the eight has a larger cosine with it (compared by squares, in integers); for the zero vector it is (1, 0).
(41_ppe.md R129) -/
def Obligations.SortDirectionIsNearest : Prop :=
  sortDirection 0 0 = (1, 0) ∧
  ∀ ax ay : Int, (ax ≠ 0 ∨ ay ≠ 0) →
    let dirs : List (Int × Int) := [(1, 0), (-1, 0), (0, 1), (0, -1), (1, 1), (1, -1), (-1, 1), (-1, -1)]
    let dot := fun d : Int × Int => ax * d.1 + ay * d.2
    let norm := fun d : Int × Int => d.1 * d.1 + d.2 * d.2
    sortDirection ax ay ∈ dirs ∧ 0 < dot (sortDirection ax ay) ∧
      ∀ e ∈ dirs, dot e ≤ 0 ∨
        dot e * dot e * norm (sortDirection ax ay) ≤ dot (sortDirection ax ay) * dot (sortDirection ax ay) * norm e

/-- P.ACCEL(i) adds the tilt and two draws in [0, jmax] to the velocity of particle i and clamps it. In a producer
domain that is not halted, with count at most 512 and i below it, P.ACCEL completes: there are two draws in [0, jmax]
such that the velocity of entry i is the clamped sum, which fits its fields; position and colour of the entry and
every other entry are as before. Listed answers in range are taken x first. Only the table, the working velocity, the
free answers and the sequencer position change. (41_ppe.md R127, 41_ppe.md R131, 41_ppe.md R132, 10_state.md R25) -/
def Obligations.AccelerateAddsTiltAndJitter : Prop :=
  ∀ s : State, s.p.halt = false → s.p.count.toNat ≤ 512 → s.p.i.toNat < s.p.count.toNat →
    ∃ (jx jy : Nat) (t : State), jx ≤ s.p.work.jmax ∧ jy ≤ s.p.work.jmax ∧ exec .pAccel s = .next t ∧
      let q := readPart s s.p.i.toNat
      let v := clampSpeed (q.vx.toInt + s.p.work.ax2 + jx) (q.vy.toInt + s.p.work.ay2 + jy)
      readPart t s.p.i.toNat = { q with vx := BitVec.ofInt 16 v.1, vy := BitVec.ofInt 16 v.2 } ∧
      (readPart t s.p.i.toNat).vx.toInt = v.1 ∧ (readPart t s.p.i.toNat).vy.toInt = v.2 ∧
      (∀ k, k ≠ s.p.i.toNat → readPart t k = readPart s k) ∧
      t = afterAccel { s with
        p.part := t.p.part, p.work := { s.p.work with vx := v.1, vy := v.2 }
        env.oracle := t.env.oracle, env.fresh := t.env.fresh } ∧
      (∀ n m rest, s.env.oracle = n :: m :: rest → n ≤ s.p.work.jmax → m ≤ s.p.work.jmax →
        jx = n ∧ jy = m ∧ t.env.oracle = rest)

/-- P.MOVE(i) clamps at the walls, bouncing, and takes the candidate in its own cell or a free one. In a producer
domain that is not halted, with a legal geometry, count at most 512, i below it and particle i inside the field. The
candidate is position plus velocity on each axis: below 0 it is 0, above W*256-1 (H*256-1 for y) it is that maximum,
and in these two cases alone the velocity bounces; arriving exactly at 0 or at the maximum is no clamp. If the
candidate is in the particle own cell, or its cell is free, P.MOVE completes with position and velocity of entry i
those of the candidate, the bit of the old cell cleared and that of the new one set, and no other entry or bit
changed; only the table, the bitmap, the working registers and the sequencer position change. (41_ppe.md R133,
41_ppe.md R122, 41_ppe.md R134, 41_ppe.md R137, 95_test_vectors.md T4) -/
def Obligations.MoveIntoFreeCell : Prop :=
  ∀ s : State, s.p.halt = false → s.geom.wf = true → s.p.count.toNat ≤ 512 → s.p.i.toNat < s.p.count.toNat →
    InField s s.p.i.toNat →
    let q := readPart s s.p.i.toNat
    let e := (s.p.cfg.extractLsb' 8 8).toNat
    let ox : Int := q.x.toNat
    let oy : Int := q.y.toNat
    let vx := q.vx.toInt
    let vy := q.vy.toInt
    let xMax : Int := s.geom.w * 256 - 1
    let yMax : Int := s.geom.h * 256 - 1
    let m : Motion := {
      nx := if ox + vx < 0 then 0 else if xMax < ox + vx then xMax else ox + vx
      ny := if oy + vy < 0 then 0 else if yMax < oy + vy then yMax else oy + vy
      vx := if ox + vx < 0 ∨ xMax < ox + vx then bounce e vx else vx
      vy := if oy + vy < 0 ∨ yMax < oy + vy then bounce e vy else vy }
    (cellIndex s ox oy = cellIndex s m.nx m.ny ∨ obmBit s (cellOf m.nx) (cellOf m.ny) = false) →
    ∃ t, exec .pMove s = .next t ∧ MovedTo s.p.i.toNat m s t ∧
      t = afterMove { s with p.part := t.p.part, p.obm := t.p.obm, p.work := t.p.work }

/-- P.MOVE(i) into an occupied cell cancels one axis, skids, or cancels both, by the index difference. As
MoveIntoFreeCell, the candidate clamped at the walls and bounced there by the same rule, when it is in another cell
and that cell is occupied: index difference 1 gives up x, else difference W gives up y, else the skid of the diagonal
rule decides by the speeds and by the two single-axis cells; an axis that is given up keeps its old coordinate and its
velocity bounces. (41_ppe.md R133, 41_ppe.md R122, 41_ppe.md R134, 41_ppe.md R135, 41_ppe.md R136, 41_ppe.md R137) -/
def Obligations.MoveResolvesCollision : Prop :=
  ∀ s : State, s.p.halt = false → s.geom.wf = true → s.p.count.toNat ≤ 512 → s.p.i.toNat < s.p.count.toNat →
    InField s s.p.i.toNat →
    let q := readPart s s.p.i.toNat
    let e := (s.p.cfg.extractLsb' 8 8).toNat
    let ox : Int := q.x.toNat
    let oy : Int := q.y.toNat
    let vx := q.vx.toInt
    let vy := q.vy.toInt
    let xMax : Int := s.geom.w * 256 - 1
    let yMax : Int := s.geom.h * 256 - 1
    let m : Motion := {
      nx := if ox + vx < 0 then 0 else if xMax < ox + vx then xMax else ox + vx
      ny := if oy + vy < 0 then 0 else if yMax < oy + vy then yMax else oy + vy
      vx := if ox + vx < 0 ∨ xMax < ox + vx then bounce e vx else vx
      vy := if oy + vy < 0 ∨ yMax < oy + vy then bounce e vy else vy }
    let delta := (cellIndex s m.nx m.ny - cellIndex s ox oy).natAbs
    let freeX := obmBit s (cellOf m.nx) (cellOf oy) = false
    let freeY := obmBit s (cellOf ox) (cellOf m.ny) = false
    let giveX : Motion := { m with nx := ox, vx := bounce e m.vx }
    let giveY : Motion := { m with ny := oy, vy := bounce e m.vy }
    let giveBoth : Motion := ⟨ox, oy, bounce e m.vx, bounce e m.vy⟩
    delta ≠ 0 → obmBit s (cellOf m.nx) (cellOf m.ny) = true →
    ∃ (r : Motion) (t : State), exec .pMove s = .next t ∧ MovedTo s.p.i.toNat r s t ∧
      t = afterMove { s with p.part := t.p.part, p.obm := t.p.obm, p.work := t.p.work } ∧
      (delta = 1 → r = giveX) ∧
      (delta ≠ 1 → delta = s.geom.w → r = giveY) ∧
      (delta ≠ 1 → delta ≠ s.geom.w → |m.vx| ≥ |m.vy| →
        (freeX → r = giveY) ∧ (¬freeX → freeY → r = giveX) ∧ (¬freeX → ¬freeY → r = giveBoth)) ∧
      (delta ≠ 1 → delta ≠ s.geom.w → |m.vx| < |m.vy| →
        (freeY → r = giveX) ∧ (¬freeY → freeX → r = giveY) ∧ (¬freeY → ¬freeX → r = giveBoth))

/-- P.EXEC of a PPE.TICK takes the snapshot and sends ready, or waits for the slot. In a producer domain that is not
halted and executes a PPE.TICK under P.EXEC with nothing in flight and count at most 512: the active entries are
staged; then, if P2C is seen empty, the ready token is sent, inflight is set and the tick completes; if it is seen
full the tick is in P.WAIT. (That a tick after a wait goes on by micro-operations is the model choice of log 3.)
(41_ppe.md R139, 41_ppe.md R140, 42_fsh.md R163, 41_ppe.md R120) -/
def Obligations.ExecPhaseFinishesATick : Prop :=
  ∀ s : State, s.p.halt = false → s.p.opc = 0x15 → s.p.inflight = false → s.p.count.toNat ≤ 512 →
    ∃ t, exec .pExec s = .next t ∧
      (∀ k, stgRead t k =
        if k < s.p.count.toNat then ⟨(readPart s k).x, (readPart s k).y, (readPart s k).color⟩ else stgRead s k) ∧
      (p2cFullSeen s = false → t = { s with
        p.stg := t.p.stg, p.stgCount := s.p.count, p.p2cData := 1, p.p2cReq := !s.p.p2cReq, p.inflight := true
        p.busy := false, p.pphase := 0, p.i := 0 }) ∧
      (p2cFullSeen s = true → t = { s with
        p.stg := t.p.stg, p.stgCount := s.p.count, p.pphase := 6 })

/-- Running the micro-operations P.SCALE, P.SORT, P.ACCEL(i), P.MOVE(i) one by one is PPE.ITER in one step. From
acceptance of PPE.ITER with the sequencer at P.SCALE, in an idle producer domain with nothing in flight, 2*count + 2
turns of agent P with nothing else stepping come to exactly what the one atomic step of PPE.ITER comes to, whatever
the draws, the tables and the bitmap, faults included. (10_state.md R25, 41_ppe.md R126, 41_ppe.md R138) -/
def Obligations.MicroOperationsRefineIterate : Prop :=
  ∀ s : State, Idle s → s.p.inflight = false →
    producerRun (2 * s.p.count.toNat + 2) { accept 0x13 s with p.pphase := 1 } = exec .ppeIter s

/-- C.SETBIT, C.DMASTART, C.DUMMY2 and C.STROBE write exactly their registers and go on. In a consumer domain that is
not halted: C.SETBIT configures the bit offset and clears the word count; C.DMASTART starts the transfer of the row;
C.DUMMY2 pushes two zero words; C.STROBE latches and empties the line, starts the pulse of max(OE_UNIT,1)*2^bit cycles
and emits ROWOUT. Each goes to the next phase and changes nothing else. (43_bpd.md R184, 43_bpd.md R185, 43_bpd.md
R188, 43_bpd.md R196, 10_state.md R45) -/
def Obligations.SlotOperationsWriteTheirRegisters : Prop :=
  ∀ s : State, s.c.halt = false →
    exec .cSetbit s = .next { s with c.shBit := s.c.bit, c.shCount := 0, c.cphase := 2 } ∧
    exec .cDmastart s = .next { s with
      c.dmaIdx := BitVec.ofNat 11 (s.c.row.toNat * (2 * s.geom.size)), c.dmaRem := BitVec.ofNat 7 (2 * s.geom.size)
      c.dmaBusy := true, c.cphase := 3 } ∧
    exec .cDummy2 s = .next { s with c.shFifo := s.c.shFifo ++ [0, 0], c.cphase := 6 } ∧
    exec .cStrobe s = .next { s with
      c.shLine := [], c.rsRow := s.c.row, c.rsBit := s.c.bit
      c.rsWidth := max s.c.oeUnit.toNat 1 * 2 ^ s.c.bit.toNat, c.rsBusy := true
      c.trace := s.c.trace ++
        [Event.rowOut s.c.row s.c.bit s.c.shLine (max s.c.oeUnit.toNat 1 * 2 ^ s.c.bit.toNat)]
      c.cphase := 9 }

/-- C.WAITDMA and C.WAITSTROBE go on exactly when their condition holds. In a consumer domain that is not halted:
C.WAITDMA goes to C.DUMMY2 when the channel is idle and changes nothing while it is busy; C.WAITSTROBE goes to
C.STROBE when the pulse has ended, the queue is empty and ROWWORDS + 2 words have been consumed, and changes nothing
otherwise. (43_bpd.md R187, 43_bpd.md R195) -/
def Obligations.SlotWaitsHoldUntilReady : Prop :=
  ∀ s : State, s.c.halt = false →
    (s.c.dmaBusy = false → exec .cWaitdma s = .next { s with c.cphase := 5 }) ∧
    (s.c.dmaBusy = true → exec .cWaitdma s = .next s) ∧
    (s.c.rsBusy = false ∧ s.c.shFifo = [] ∧ s.c.shCount.toNat = 2 * s.geom.size + 2 →
      exec .cWaitstrobe s = .next { s with c.cphase := 8 }) ∧
    (¬(s.c.rsBusy = false ∧ s.c.shFifo = [] ∧ s.c.shCount.toNat = 2 * s.geom.size + 2) →
      exec .cWaitstrobe s = .next s)

/-- C.NEXT advances the bit, then the row, and goes to C.FLIP at the end of the frame. In a consumer domain that is
not halted: below bit 7 the bit advances; at bit 7 below the last row the bit returns to BITLO and the row advances;
at the end of the frame only the phase changes, to C.FLIP. Nothing else changes, and no increment wraps. (43_bpd.md
R197) -/
def Obligations.NextAdvancesTheSlot : Prop :=
  decode (.cphase 9) = .ok .cNext ∧
  ∀ s : State, s.c.halt = false →
    (s.c.bit.toNat < 7 →
      exec .cNext s = .next { s with c.bit := s.c.bit + 1, c.cphase := 1 } ∧
      (s.c.bit + 1).toNat = s.c.bit.toNat + 1) ∧
    (s.c.bit.toNat = 7 → s.c.row.toNat + 1 < scan s →
      exec .cNext s = .next { s with c.bit := bitLo s, c.row := s.c.row + 1, c.cphase := 1 } ∧
      (s.geom.size ≤ 32 → (s.c.row + 1).toNat = s.c.row.toNat + 1)) ∧
    (s.c.bit.toNat = 7 → scan s ≤ s.c.row.toNat + 1 → exec .cNext s = .next { s with c.cphase := 10 })

/-- C.POLL takes a visible ready token and marks a redraw pending; FSH.POLLRDY alone only empties the slot. In a
consumer domain that is not halted: with no token visible C.POLL only goes on and FSH.POLLRDY changes nothing; with
TOK_READY visible both empty the slot and C.POLL sets redraw_pending; with another word visible both empty the slot
and raise F_BADTOKEN. (43_bpd.md R186, 42_fsh.md R166, 60_exceptions.md R233) -/
def Obligations.PollTakesAVisibleToken : Prop :=
  ∀ s : State, s.c.halt = false →
    (p2cAvail s = false → exec .cPoll s = .next { s with c.cphase := 4 } ∧ exec .fshPollrdy s = .next s) ∧
    (p2cAvail s = true → s.p.p2cData = 1 →
      exec .cPoll s = .next { s with c.p2cAck := !s.c.p2cAck, c.redrawPending := true, c.cphase := 4 } ∧
      exec .fshPollrdy s = .next { s with c.p2cAck := !s.c.p2cAck }) ∧
    (p2cAvail s = true → s.p.p2cData ≠ 1 →
      exec .cPoll s =
        .next (faultedConsumer 9 (s.p.p2cData.extractLsb' 0 24) { s with c.p2cAck := !s.c.p2cAck }) ∧
      exec .fshPollrdy s =
        .next (faultedConsumer 9 (s.p.p2cData.extractLsb' 0 24) { s with c.p2cAck := !s.c.p2cAck }))

/-- C.REDRAW goes on, or runs the slice of rstate when the slot may redraw and the free choice takes it. In a consumer
domain that is not halted: a slot that is not eligible goes to C.WAITSTROBE; in an eligible one the free choice either
goes on or performs BPD.SLICE and stays. BPD.SLICE is the slice of the code of rstate; the IDLE slice leaves IDLE with
both cursors 0 and draws nothing; code 3 raises F_BADCFG. (43_bpd.md R189, 43_bpd.md R190, 43_bpd.md R191,
30_encoding.md R104, 60_exceptions.md R229) -/
def Obligations.RedrawChoosesSliceOrGoesOn : Prop :=
  ∀ s : State, s.c.halt = false →
    (¬((s.c.cfg.extractLsb' 4 3).toNat ≤ s.c.bit.toNat ∧ s.c.redrawPending = true) →
      exec .cRedraw s = .next { s with c.cphase := 7 }) ∧
    ((s.c.cfg.extractLsb' 4 3).toNat ≤ s.c.bit.toNat ∧ s.c.redrawPending = true →
      ((choose s).1 = false → exec .cRedraw s = .next { (choose s).2 with c.cphase := 7 }) ∧
      ((choose s).1 = true → exec .cRedraw s = exec .bpdSlice (choose s).2)) ∧
    (s.c.rstate = 0 → exec .bpdSlice s = exec .sliceIdle s) ∧
    (s.c.rstate = 1 → exec .bpdSlice s = exec .sliceClear s) ∧
    (s.c.rstate = 2 → exec .bpdSlice s = exec .sliceParticles s) ∧
    (s.c.rstate = 3 → exec .bpdSlice s = .next (faultedConsumer 10 (s.c.cfg.extractLsb' 0 24) s)) ∧
    exec .sliceIdle s = .next { s with c.rstate := 1, c.rowCursor := 0, c.partCursor := 0 } ∧
    (s.c.rstate = 0 → exec .bpdSlice s = .next { s with c.rstate := 1, c.rowCursor := 0, c.partCursor := 0 })

/-- C.FLIP with a flip pending swaps, counts and sends consumed; a full slot is F_DESYNC after swap and count. In a
consumer domain that is not halted: with no flip pending C.FLIP only restarts the frame. With a flip pending and C2P
seen empty it swaps the buffers, counts the frame, sends the token, clears the flag and restarts the frame. With C2P
seen full it raises F_DESYNC with the incremented count, the swap and the count done, the flag and the channel as
before. FSH.SENDCONS alone sends, or raises F_DESYNC. (43_bpd.md R198, 42_fsh.md R167, 60_exceptions.md R223) -/
def Obligations.FlipSwapsCountsAndSends : Prop :=
  ∀ s : State, s.c.halt = false →
    (s.c.flipPending = false →
      exec .cFlip s = .next { s with c.row := 0, c.bit := bitLo s, c.cphase := 1 }) ∧
    (s.c.flipPending = true → c2pFullSeen s = false →
      exec .cFlip s = .next { s with
        c.front := !s.c.front, c.frameCount := s.c.frameCount + 1, c.c2pData := 2, c.c2pReq := !s.c.c2pReq
        c.flipPending := false, c.row := 0, c.bit := bitLo s, c.cphase := 1 }) ∧
    (s.c.flipPending = true → c2pFullSeen s = true →
      exec .cFlip s = .next (faultedConsumer 2 ((s.c.frameCount + 1).extractLsb' 0 24) { s with
        c.front := !s.c.front, c.frameCount := s.c.frameCount + 1 })) ∧
    (c2pFullSeen s = false →
      exec .fshSendcons s = .next { s with c.c2pData := 2, c.c2pReq := !s.c.c2pReq }) ∧
    (c2pFullSeen s = true →
      exec .fshSendcons s = .next (faultedConsumer 2 (s.c.frameCount.extractLsb' 0 24) s))

/-- A CLEAR slice redraws one logical row of the back buffer from the background and advances the cursor. In a
consumer domain that is not halted, with a legal geometry and row_cursor below SIZE, the CLEAR slice completes: every
back-buffer word of that row whose pixel the background is known to answer holds it, every other back-buffer word and
the whole front buffer are as before, the cursor advances, and at the bottom rstate is PARTICLES; nothing else changes
but the free answers consumed. (43_bpd.md R180, 43_bpd.md R192, 20_memory.md R61, 20_memory.md R64) -/
def Obligations.ClearSliceRedrawsOneRow : Prop :=
  ∀ s : State, s.c.halt = false → s.geom.wf = true → s.c.rowCursor.toNat < s.geom.size →
    ∃ t, exec .sliceClear s = .next t ∧
      t = { s with
        c.fb0 := if s.c.front then t.c.fb0 else s.c.fb0
        c.fb1 := if s.c.front then s.c.fb1 else t.c.fb1
        c.rowCursor := s.c.rowCursor + 1
        c.rstate := if s.c.rowCursor.toNat + 1 = s.geom.size then 2 else s.c.rstate
        env.oracle := t.env.oracle, env.fresh := t.env.fresh } ∧
      (∀ x v, x < s.geom.size → knownPixel s x s.c.rowCursor.toNat = some v →
        fbRead t (!s.c.front) (pixaddr s x s.c.rowCursor.toNat) = v) ∧
      (∀ k, (∀ x, x < s.geom.size → k ≠ pixaddr s x s.c.rowCursor.toNat) →
        fbRead t (!s.c.front) k = fbRead s (!s.c.front) k)

/-- A PARTICLES slice draws one chunk of staged particles, completes the redraw at the end, or raises F_RANGE. In a
consumer domain that is not halted, with a legal geometry, stg_count at most 512 and part_cursor at most stg_count, n
being the smaller of PARTICLE_CHUNK and what is left: if the n staged cells are inside the matrix the slice completes,
the last of those drawn on a pixel shows its colour, every other back-buffer word and the front buffer are as before,
the cursor advances by n, and at the end the redraw is complete (IDLE, a flip pending). If entry m is the first
outside, F_RANGE is raised with its cell, the cursor as before: the last of the entries before m drawn on a pixel
shows its colour, and every other back-buffer word and the front buffer are as before. (43_bpd.md R193, 43_bpd.md
R194, 60_exceptions.md R225, 60_exceptions.md R235, 20_memory.md R61) -/
def Obligations.ParticlesSliceDrawsOneChunk : Prop :=
  ∀ s : State, s.c.halt = false → s.geom.wf = true → s.p.stgCount.toNat ≤ 512 →
    s.c.partCursor.toNat ≤ s.p.stgCount.toNat →
    let c0 := s.c.partCursor.toNat
    let n := min ((s.c.cfg.extractLsb' 16 10).toNat + 1) (s.p.stgCount.toNat - c0)
    let px := fun k => (stgRead s k).x.toNat / 256
    let py := fun k => (stgRead s k).y.toNat / 256
    ((∀ k, c0 ≤ k → k < c0 + n → px k < s.geom.size ∧ py k < s.geom.size) →
      ∃ t, exec .sliceParticles s = .next t ∧
        t = { s with
          c.fb0 := if s.c.front then t.c.fb0 else s.c.fb0
          c.fb1 := if s.c.front then s.c.fb1 else t.c.fb1
          c.partCursor := BitVec.ofNat 10 (c0 + n)
          c.rstate := if c0 + n = s.p.stgCount.toNat then 0 else s.c.rstate
          c.redrawPending := if c0 + n = s.p.stgCount.toNat then false else s.c.redrawPending
          c.flipPending := if c0 + n = s.p.stgCount.toNat then true else s.c.flipPending } ∧
        (∀ k, c0 ≤ k → k < c0 + n →
          (∀ j, k < j → j < c0 + n → ¬(px j = px k ∧ py j = py k)) →
          fbRead t (!s.c.front) (pixaddr s (px k) (py k)) = (stgRead s k).color) ∧
        (∀ a, (∀ k, c0 ≤ k → k < c0 + n → a ≠ pixaddr s (px k) (py k)) →
          fbRead t (!s.c.front) a = fbRead s (!s.c.front) a)) ∧
    (∀ m, c0 ≤ m → m < c0 + n → (∀ k, c0 ≤ k → k < m → px k < s.geom.size ∧ py k < s.geom.size) →
      (s.geom.size ≤ px m ∨ s.geom.size ≤ py m) →
      ∃ t, exec .sliceParticles s = .next t ∧
        t = faultedConsumer 4 (BitVec.ofNat 12 (py m) ++ BitVec.ofNat 12 (px m)) { s with
          c.fb0 := if s.c.front then t.c.fb0 else s.c.fb0
          c.fb1 := if s.c.front then s.c.fb1 else t.c.fb1 } ∧
        (∀ k, c0 ≤ k → k < m →
          (∀ j, k < j → j < m → ¬(px j = px k ∧ py j = py k)) →
          fbRead t (!s.c.front) (pixaddr s (px k) (py k)) = (stgRead s k).color) ∧
        (∀ a, (∀ k, c0 ≤ k → k < m → a ≠ pixaddr s (px k) (py k)) →
          fbRead t (!s.c.front) a = fbRead s (!s.c.front) a))

/-- TOK_READY and TOK_CONSUMED, once visible, are taken by their receivers. In domains that are not halted: a visible
TOK_READY empties P2C and marks a redraw pending; a visible TOK_CONSUMED empties C2P and clears inflight and
LAST_TIMEOUT; with nothing visible neither changes anything. (That a token row of the table stands for its receipt is
the model choice of log 17.) (30_encoding.md R103, 42_fsh.md R164, 42_fsh.md R166, 42_fsh.md R172, 43_bpd.md R186) -/
def Obligations.TokensAreTakenByTheirReceivers : Prop :=
  ∀ s : State,
    (s.c.halt = false → p2cAvail s = true →
      exec .tokReady s = .next { s with c.p2cAck := !s.c.p2cAck, c.redrawPending := true }) ∧
    (p2cAvail s = false → exec .tokReady s = .next s) ∧
    (s.p.halt = false → c2pAvail s = true →
      exec .tokConsumed s = .next { s with
        p.c2pAck := !s.p.c2pAck, p.inflight := false, p.lastTimeout := false }) ∧
    (c2pAvail s = false → exec .tokConsumed s = .next s)

/-- A turn of DMA, SH or RS does what its rule says, and nothing while it is idle. In a consumer domain that is not
halted, the next act being a turn of the agent: DMA moves one word of the front buffer to the queue and is idle after
the last; SH discards a dummy word, holds an upper pixel, or appends the column of the held and the lower pixel; RS
ends the pulse. An agent with nothing to do changes nothing. The column takes bits b, 8+b, 16+b of the upper and the
lower word. (43_bpd.md R199, 43_bpd.md R200, 43_bpd.md R201, 43_bpd.md R202) -/
def Obligations.HelperAgentsStep : Prop :=
  (∀ (s : State) (rest : List Action), s.c.halt = false → s.env.sched = .agentDma :: rest →
    (s.c.dmaBusy = false → step s = .next { s with env.sched := rest }) ∧
    (s.c.dmaBusy = true → s.c.dmaIdx.toNat < fbWords s →
      step s = .next { s with
        env.sched := rest, c.shFifo := s.c.shFifo ++ [fbRead s s.c.front s.c.dmaIdx.toNat]
        c.dmaIdx := s.c.dmaIdx + 1, c.dmaRem := s.c.dmaRem - 1, c.dmaBusy := decide (s.c.dmaRem ≠ 1) })) ∧
  (∀ (s : State) (rest : List Action), s.c.halt = false → s.env.sched = .agentSh :: rest →
    (s.c.shFifo = [] → step s = .next { s with env.sched := rest }) ∧
    (∀ w tail, s.c.shFifo = w :: tail →
      (2 * s.geom.size ≤ s.c.shCount.toNat →
        step s = .next { s with env.sched := rest, c.shFifo := tail, c.shCount := s.c.shCount + 1 }) ∧
      (s.c.shCount.toNat < 2 * s.geom.size → s.c.shCount.toNat % 2 = 0 →
        step s = .next { s with
          env.sched := rest, c.shFifo := tail, c.shHold := some w, c.shCount := s.c.shCount + 1 }) ∧
      (∀ u, s.c.shCount.toNat < 2 * s.geom.size → s.c.shCount.toNat % 2 = 1 → s.c.shHold = some u →
        step s = .next { s with
          env.sched := rest, c.shFifo := tail, c.shHold := none, c.shCount := s.c.shCount + 1
          c.shLine := s.c.shLine ++ [column u w s.c.shBit] }))) ∧
  (∀ (s : State) (rest : List Action), s.c.halt = false → s.env.sched = .agentRs :: rest →
    step s = .next { s with env.sched := rest, c.rsBusy := false }) ∧
  (∀ (u l : Word) (b : BitVec 3),
    (column u l b).getLsbD 0 = u.getLsbD b.toNat ∧ (column u l b).getLsbD 1 = u.getLsbD (8 + b.toNat) ∧
    (column u l b).getLsbD 2 = u.getLsbD (16 + b.toNat) ∧ (column u l b).getLsbD 3 = l.getLsbD b.toNat ∧
    (column u l b).getLsbD 4 = l.getLsbD (8 + b.toNat) ∧ (column u l b).getLsbD 5 = l.getLsbD (16 + b.toNat))

/-- SYNC.C and SYNC.P advance both chains of their domain at once; a toggle is visible after two steps. When the next
act is a turn of a synchroniser, the step performs the four assignments of its domain from the values before it and
nothing else, halted or not; after two such turns in a row the second flops hold the toggles. (42_fsh.md R162) -/
def Obligations.SynchronisersShiftTheToggles : Prop :=
  (∀ (s : State) (rest : List Action), s.env.sched = .syncC :: rest →
    step s = .next { s with
      env.sched := rest
      c.p2cReqS2 := s.c.p2cReqS1, c.p2cReqS1 := s.p.p2cReq, c.c2pAckS2 := s.c.c2pAckS1, c.c2pAckS1 := s.p.c2pAck }) ∧
  (∀ (s : State) (rest : List Action), s.env.sched = .syncP :: rest →
    step s = .next { s with
      env.sched := rest
      p.c2pReqS2 := s.p.c2pReqS1, p.c2pReqS1 := s.c.c2pReq, p.p2cAckS2 := s.p.p2cAckS1, p.p2cAckS1 := s.c.p2cAck }) ∧
  (∀ (s : State) (rest : List Action), s.env.sched = .syncC :: .syncC :: rest →
    ∃ t, Host.Core.run Sys2Proof.core 2 s = .next t ∧
      t.c.p2cReqS2 = s.p.p2cReq ∧ t.c.c2pAckS2 = s.p.c2pAck) ∧
  (∀ (s : State) (rest : List Action), s.env.sched = .syncP :: .syncP :: rest →
    ∃ t, Host.Core.run Sys2Proof.core 2 s = .next t ∧
      t.p.c2pReqS2 = s.c.c2pReq ∧ t.p.p2cAckS2 = s.c.p2cAck)

/-- Every write of the P port but P_CMD has exactly the effect of the register map. For a 32-bit write at an aligned
offset: the operand registers are written, P_STATUS bit 3 clears WARN_TIMEOUT, P_CFG and P_TIMEOUT are written only
while BUSY = 0 (reserved bits ignored), P_PARTIDX keeps 10 bits, and every other offset ignores it. A narrower or
misaligned write changes nothing. (10_state.md R23, 10_state.md R26, 10_state.md R32, 10_state.md R56,
70_reset_and_hazards.md R262, 20_memory.md R65, 60_exceptions.md R239) -/
def Obligations.ProducerPortWrites : Prop :=
  ∀ (s : State) (rest : List Action) (size : AccessSize) (off v : Word),
    s.env.sched = .hostP (.write size off v) :: rest →
    (size = .word → off = 0x04 → step s = .next { s with env.sched := rest, p.arg0 := v }) ∧
    (size = .word → off = 0x08 → step s = .next { s with env.sched := rest, p.arg1 := v }) ∧
    (size = .word → off = 0x0C → step s = .next { s with env.sched := rest, p.arg2 := v }) ∧
    (size = .word → off = 0x14 → step s = .next { s with
      env.sched := rest, p.warnTimeout := s.p.warnTimeout && !v.getLsbD 3 }) ∧
    (size = .word → off = 0x18 → s.p.busy = false → step s = .next { s with
      env.sched := rest, p.cfg := v &&& 0x0001_FFFF }) ∧
    (size = .word → off = 0x24 → s.p.busy = false → step s = .next { s with env.sched := rest, p.timeout := v }) ∧
    (size = .word → off = 0x2C → step s = .next { s with env.sched := rest, p.partIdx := v.extractLsb' 0 10 }) ∧
    (size = .word → off = 0x18 ∨ off = 0x24 → s.p.busy = true → step s = .next { s with env.sched := rest }) ∧
    (off ∉ ([0x00, 0x04, 0x08, 0x0C, 0x14, 0x18, 0x24, 0x2C] : List Word) →
      step s = .next { s with env.sched := rest }) ∧
    (size ≠ .word ∨ off.extractLsb' 0 2 ≠ 0 → step s = .next { s with env.sched := rest })

/-- A read of either port returns what its register map says and changes nothing of the block. For a 32-bit read at an
aligned offset each register of the two maps returns its image, a write-only or reserved offset 0, and the particle
window the selected entry while BUSY = 0 and the index is below count. Any read of either port, of any size and at any
offset, changes only the word it returned on that port and the free answers. P_STATUS, C_STATUS, C_CURSOR and, for a
legal geometry, P_GEOM have their fields at their places and 0 elsewhere. (10_state.md R23, 10_state.md R24,
10_state.md R27, 10_state.md R32, 10_state.md R40, 10_state.md R43, 10_state.md R48, 10_state.md R56, 20_memory.md
R65) -/
def Obligations.PortReadsFollowTheMap : Prop :=
  (∀ (s : State) (rest : List Action) (off v : Word), s.env.sched = .hostP (.read .word off) :: rest →
    (off, v) ∈ ([(0x00, 0), (0x04, s.p.arg0), (0x08, s.p.arg1), (0x0C, s.p.arg2), (0x10, s.p.result),
      (0x14, pStatus s), (0x18, s.p.cfg), (0x1C, pGeom s), (0x20, s.p.count.zeroExtend 32), (0x24, s.p.timeout),
      (0x28, s.p.fault), (0x2C, s.p.partIdx.zeroExtend 32), (0x3C, s.p.dropCnt)] : List (Word × Word)) ∨
      (0x40 ≤ off ∧ off.extractLsb' 0 2 = 0 ∧ v = 0) →
    step s = .next { s with env.sched := rest, env.pRdata := v }) ∧
  (∀ (s : State) (rest : List Action) (off v : Word), s.env.sched = .hostP (.read .word off) :: rest →
    s.p.busy = false → s.p.partIdx < s.p.count →
    (off, v) ∈ ([(0x30, (readPart s s.p.partIdx.toNat).y ++ (readPart s s.p.partIdx.toNat).x),
      (0x34, (readPart s s.p.partIdx.toNat).vy ++ (readPart s s.p.partIdx.toNat).vx),
      (0x38, (readPart s s.p.partIdx.toNat).color)] : List (Word × Word)) →
    step s = .next { s with env.sched := rest, env.pRdata := v }) ∧
  (∀ (s : State) (rest : List Action) (size : AccessSize) (off : Word),
    s.env.sched = .hostP (.read size off) :: rest →
    ∃ t, step s = .next t ∧ t = { s with
      env.sched := rest, env.pRdata := t.env.pRdata, env.oracle := t.env.oracle, env.fresh := t.env.fresh }) ∧
  (∀ (s : State) (rest : List Action) (off v : Word), s.env.sched = .hostC (.read .word off) :: rest →
    (off, v) ∈ ([(0x00, if s.c.en then 1 else 0), (0x04, cStatus s), (0x08, s.c.cfg),
      (0x0C, s.c.oeUnit.zeroExtend 32), (0x10, s.c.frameCount), (0x14, s.c.fault), (0x18, cCursor s)]
      : List (Word × Word)) ∨ (0x1C ≤ off ∧ off.extractLsb' 0 2 = 0 ∧ v = 0) →
    step s = .next { s with env.sched := rest, env.cRdata := v }) ∧
  (∀ (s : State) (rest : List Action) (size : AccessSize) (off : Word),
    s.env.sched = .hostC (.read size off) :: rest →
    ∃ t, step s = .next t ∧ t = { s with
      env.sched := rest, env.cRdata := t.env.cRdata, env.oracle := t.env.oracle, env.fresh := t.env.fresh }) ∧
  (∀ s : State, s.geom.wf = true →
    ((pGeom s).extractLsb' 0 6).toNat = s.geom.w ∧ (pGeom s).extractLsb' 6 2 = 0 ∧
    ((pGeom s).extractLsb' 8 6).toNat = s.geom.h ∧ (pGeom s).extractLsb' 14 18 = 0) ∧
  (∀ s : State,
    (cCursor s).extractLsb' 0 6 = s.c.rowCursor ∧ (cCursor s).extractLsb' 6 10 = 0 ∧
    (cCursor s).extractLsb' 16 10 = s.c.partCursor ∧ (cCursor s).extractLsb' 26 6 = 0) ∧
  (∀ s : State,
    (pStatus s).getLsbD 0 = s.p.busy ∧ (pStatus s).getLsbD 1 = s.p.halt ∧ (pStatus s).getLsbD 2 = s.p.inflight ∧
    (pStatus s).getLsbD 3 = s.p.warnTimeout ∧ (pStatus s).getLsbD 4 = s.p.lastTimeout ∧
    (pStatus s).extractLsb' 5 3 = 0 ∧ (pStatus s).extractLsb' 8 3 = s.p.pphase ∧
    (pStatus s).extractLsb' 11 21 = 0 ∧
    (cStatus s).extractLsb' 0 4 = s.c.cphase ∧ (cStatus s).extractLsb' 4 2 = s.c.rstate ∧
    (cStatus s).getLsbD 6 = s.c.redrawPending ∧ (cStatus s).getLsbD 7 = s.c.flipPending ∧
    (cStatus s).getLsbD 8 = s.c.front ∧ (cStatus s).getLsbD 9 = s.c.halt ∧
    (cStatus s).extractLsb' 10 6 = 0 ∧ (cStatus s).extractLsb' 16 5 = s.c.row ∧
    (cStatus s).extractLsb' 21 3 = 0 ∧ (cStatus s).extractLsb' 24 3 = s.c.bit ∧ (cStatus s).extractLsb' 27 5 = 0)

/-- Every write of the C port has exactly the effect of the register map; enabling checks the configuration. For a
32-bit write at an aligned offset: C_CFG and C_OEUNIT are written only while EN = 0 (reserved bits ignored); C_CTRL
written with bit 0 = 1 while EN = 0 and HALT = 0 starts the sequencer at row 0, bit BITLO, C.SETBIT if the fields of
C_CFG are legal and raises F_BADCFG with EN still 0 otherwise; every other write changes nothing. (10_state.md R40,
10_state.md R42, 10_state.md R44, 10_state.md R45, 10_state.md R56, 70_reset_and_hazards.md R263, 43_bpd.md R183,
60_exceptions.md R229, 20_memory.md R65) -/
def Obligations.ConsumerPortWritesAndEnable : Prop :=
  ∀ (s : State) (rest : List Action) (size : AccessSize) (off v : Word),
    s.env.sched = .hostC (.write size off v) :: rest →
    let depth := (s.c.cfg.extractLsb' 0 4).toNat
    let legal := 1 ≤ depth ∧ depth ≤ 8 ∧ 8 - depth ≤ (s.c.cfg.extractLsb' 4 3).toNat ∧
      (s.c.cfg.extractLsb' 16 10).toNat ≤ 511
    (size = .word → off = 0x00 → v.getLsbD 0 = true → s.c.en = false → s.c.halt = false →
      (legal → step s = .next { s with
        env.sched := rest, c.en := true, c.row := 0, c.bit := BitVec.ofNat 3 (8 - depth), c.cphase := 1 }) ∧
      (¬legal → step s = .next (faultedConsumer 10 (s.c.cfg.extractLsb' 0 24) { s with env.sched := rest }))) ∧
    (size = .word → off = 0x00 → v.getLsbD 0 = false ∨ s.c.en = true ∨ s.c.halt = true →
      step s = .next { s with env.sched := rest }) ∧
    (size = .word → off = 0x08 → s.c.en = false → step s = .next { s with
      env.sched := rest, c.cfg := v &&& 0x03FF_007F }) ∧
    (size = .word → off = 0x0C → s.c.en = false → step s = .next { s with
      env.sched := rest, c.oeUnit := v.extractLsb' 0 16 }) ∧
    (size = .word → off = 0x08 ∨ off = 0x0C → s.c.en = true → step s = .next { s with env.sched := rest }) ∧
    (off ∉ ([0x00, 0x08, 0x0C] : List Word) → step s = .next { s with env.sched := rest }) ∧
    (size ≠ .word ∨ off.extractLsb' 0 2 ≠ 0 → step s = .next { s with env.sched := rest })

/-- Reset leaves every register, flag, channel, flop and framebuffer word at the value the spec gives. For every build
geometry, the state right after reset has the values of the summary table (those the spec gives); and when the next
act is a reset, the step puts both domains in that state, whatever they held, keeping the environment (that the
counter selecting new power-on contents advances is the model choice of log 5). (10_state.md R58,
70_reset_and_hazards.md R250, 70_reset_and_hazards.md R251, 70_reset_and_hazards.md R253) -/
def Obligations.ResetValues : Prop :=
  (∀ g : Geometry,
    let r := State.resetWith g
    r.geom = g ∧ r.p.arg0 = 0 ∧ r.p.arg1 = 0 ∧ r.p.arg2 = 0 ∧ r.p.result = 0 ∧ pStatus r = 0 ∧ r.p.pphase = 0 ∧
    r.p.i = 0 ∧ r.p.cfg = 0x0000_8040 ∧ r.p.count = 0 ∧ r.p.stgCount = 0 ∧ r.p.timeout = 0xFFFF_FFFF ∧
    r.p.fault = 0 ∧ r.c.fault = 0 ∧ r.p.partIdx = 0 ∧ r.p.dropCnt = 0 ∧ r.p.inflight = false ∧
    r.p.p2cReq = false ∧ r.p.p2cData = 0 ∧ r.c.p2cAck = false ∧ r.c.c2pReq = false ∧ r.c.c2pData = 0 ∧
    r.p.c2pAck = false ∧ r.p.p2cAckS1 = false ∧ r.p.p2cAckS2 = false ∧ r.p.c2pReqS1 = false ∧
    r.p.c2pReqS2 = false ∧ r.c.p2cReqS1 = false ∧ r.c.p2cReqS2 = false ∧ r.c.c2pAckS1 = false ∧
    r.c.c2pAckS2 = false ∧ r.c.en = false ∧ cStatus r = 0 ∧ r.c.cphase = 0 ∧ r.c.row = 0 ∧ r.c.bit = 0 ∧
    r.c.cfg = 0x01FF_0078 ∧ r.c.oeUnit = 1 ∧ r.c.frameCount = 0 ∧ r.c.rstate = 0 ∧ r.c.rowCursor = 0 ∧
    r.c.partCursor = 0 ∧ r.c.front = false ∧ (∀ b k, fbRead r b k = 0) ∧ r.c.redrawPending = false ∧
    r.c.flipPending = false ∧ r.c.dmaBusy = false ∧ r.c.dmaIdx = 0 ∧ r.c.dmaRem = 0 ∧ r.c.shBit = 0 ∧
    r.c.shFifo = [] ∧ r.c.shLine = [] ∧ r.c.shHold = none ∧ r.c.shCount = 0 ∧ r.c.rsBusy = false ∧
    r.c.trace = []) ∧
  State.reset = State.resetWith Config.builtGeometry ∧
  (∀ (s : State) (rest : List Action), s.env.sched = .reset :: rest →
    step s = .next { s with
      p := (State.resetWith s.geom).p, c := (State.resetWith s.geom).c
      env.sched := rest, env.epoch := s.env.epoch + 1 })

/-- Every step keeps the machine invariant. From every state that satisfies Inv (legal geometry, table counts at most
512, row below SCAN, the DMA transfer inside the framebuffer, the row cursor below SIZE while clearing, an upper pixel
held when a lower one is due, no framebuffer word past the end, reserved configuration bits 0, every memory in
canonical form), every next state of step satisfies Inv. (00_scope.md R6, 10_state.md R26, 10_state.md R28,
10_state.md R33, 10_state.md R41, 10_state.md R44, 10_state.md R48, 10_state.md R51, 43_bpd.md R200, 20_memory.md R61)
-/
def Obligations.StepKeepsInvariant : Prop :=
  ∀ s t : State, Inv s → step s = .next t → Inv t

/-- The state after reset satisfies the machine invariant and the handshake invariant. State.reset satisfies Inv and
Handshake, and so does the reset state of every legal build geometry. (10_state.md R58, 70_reset_and_hazards.md R251,
42_fsh.md R169) -/
def Obligations.ResetSatisfiesInvariants : Prop :=
  Inv State.reset ∧ Handshake State.reset ∧
  ∀ g : Geometry, g.wf = true → Inv (State.resetWith g) ∧ Handshake (State.resetWith g)

/-- In a state that satisfies the invariant every step answers a next state. From every state that satisfies Inv,
whatever act comes next, step neither faults nor refuses: the stops of the model (an entry or word that does not
exist, a missing pair half) are not reached, and every fatal fault of the block is a next state. (20_memory.md R61,
20_memory.md R62, 43_bpd.md R200, 60_exceptions.md R230) -/
def Obligations.InvariantExcludesModelStops : Prop :=
  ∀ s : State, Inv s → ∃ t, step s = .next t

/-- Every step keeps token conservation and the order in which the toggles become visible. From every state that
satisfies Handshake (the frame in flight is in exactly one of its four places, the toggles agree as that place says,
the words in full slots are the right tokens, and each two-flop chain has seen its toggle no earlier than what it must
follow), every next state of step satisfies Handshake, for every interleaving. (42_fsh.md R169, 42_fsh.md R170,
42_fsh.md R161, 10_state.md R57) -/
def Obligations.StepKeepsHandshake : Prop :=
  ∀ s t : State, Handshake s → step s = .next t → Handshake t

/-- Under the handshake invariant no send blocks or desynchronises and no wrong token is ever visible. In every state
that satisfies Handshake: with nothing in flight the producer sees P2C empty; with a flip pending the consumer sees
C2P empty; a token the consumer sees is TOK_READY, in a full slot, with no redraw or flip pending; a token the
producer sees is TOK_CONSUMED, in a full slot, with a frame in flight; a full slot is never seen empty by its sender;
redraw and flip are never both pending, nor both slots full. (42_fsh.md R161, 42_fsh.md R169, 42_fsh.md R170,
42_fsh.md R172, 42_fsh.md R173, 10_state.md R50) -/
def Obligations.HandshakeExcludesItsFaults : Prop :=
  ∀ s : State, Handshake s →
    (s.p.inflight = false → p2cFullSeen s = false) ∧
    (s.c.flipPending = true → c2pFullSeen s = false) ∧
    (p2cAvail s = true →
      p2cFull s = true ∧ s.p.p2cData = tokReadyWord ∧ s.c.redrawPending = false ∧ s.c.flipPending = false) ∧
    (c2pAvail s = true → c2pFull s = true ∧ s.c.c2pData = tokConsumedWord ∧ s.p.inflight = true) ∧
    (p2cFull s = true → p2cFullSeen s = true) ∧ (c2pFull s = true → c2pFullSeen s = true) ∧
    ¬(s.c.redrawPending = true ∧ s.c.flipPending = true) ∧ ¬(p2cFull s = true ∧ c2pFull s = true)

/-- A halted domain executes nothing until reset: only port registers and synchroniser flops can change. For every
step without a reset: if the producer domain is halted, its state after the step differs from before at most in the
operand registers, P_CFG, P_TIMEOUT, P_PARTIDX, WARN_TIMEOUT and its four flops; if the consumer domain is halted, at
most in C_CFG, C_OEUNIT and its four flops. In particular HALT, the fault register, the tables, the channels and the
trace are final. (60_exceptions.md R230, 60_exceptions.md R235, 60_exceptions.md R237, 30_encoding.md R98,
70_reset_and_hazards.md R262, 70_reset_and_hazards.md R263) -/
def Obligations.HaltedDomainsStayHalted : Prop :=
  ∀ s t : State, step s = .next t → t.env.epoch = s.env.epoch →
    (s.p.halt = true → t.p = { s.p with
      arg0 := t.p.arg0, arg1 := t.p.arg1, arg2 := t.p.arg2, cfg := t.p.cfg, timeout := t.p.timeout
      partIdx := t.p.partIdx, warnTimeout := t.p.warnTimeout
      p2cAckS1 := t.p.p2cAckS1, p2cAckS2 := t.p.p2cAckS2, c2pReqS1 := t.p.c2pReqS1, c2pReqS2 := t.p.c2pReqS2 }) ∧
    (s.c.halt = true → t.c = { s.c with
      cfg := t.c.cfg, oeUnit := t.c.oeUnit
      p2cReqS1 := t.c.p2cReqS1, p2cReqS2 := t.c.p2cReqS2, c2pAckS1 := t.c.c2pAckS1, c2pAckS2 := t.c.c2pAckS2 })

/-- The trace only grows, front changes only in C.FLIP, count only in PPE.LDPART. For every step without a reset: the
trace afterwards extends the trace before; if front changed, the step was a turn of agent C at C.FLIP with a flip
pending; if count changed, the producer domain was not halted and the step was a host write of the PPE.LDPART word to
P_CMD in an idle producer domain, or a turn of agent P at P.EXEC with PPE.LDPART the latched command (a position that
log 18 covers). (10_state.md R28, 10_state.md R49, 10_state.md R54, 20_memory.md R74) -/
def Obligations.TraceFrontAndCountHaveOneWriter : Prop :=
  ∀ s t : State, step s = .next t → t.env.epoch = s.env.epoch →
    (∃ events, t.c.trace = s.c.trace ++ events) ∧
    (t.c.front ≠ s.c.front → (nextAction s).1 = .agentC ∧ s.c.cphase = 10 ∧ s.c.flipPending = true) ∧
    (t.p.count ≠ s.p.count →
      ((nextAction s).1 = .hostP (.write .word 0 0x11) ∧ Idle s) ∨
      ((nextAction s).1 = .agentP ∧ s.p.pphase = 5 ∧ s.p.opc = 0x11 ∧ s.p.halt = false))

/-- No producer operation writes consumer state, and no consumer operation writes producer state. For every operation
that answers a next state, faulting or not: an operation of the producer domain leaves the whole consumer record as it
was, an operation of the consumer domain the whole producer record, and none changes the geometry. (10_state.md R20,
20_memory.md R71, 60_exceptions.md R235) -/
def Obligations.OperationsKeepToTheirDomain : Prop :=
  ∀ (i : Instr) (s t : State), exec i s = .next t →
    (isConsumerOp i = false → t.c = s.c) ∧ (isConsumerOp i = true → t.p = s.p) ∧ t.geom = s.geom

/-- Bits W..31 of the bitmap words, once 0, stay 0 until reset. With a legal geometry: if bits W..31 of every row word
of the field are 0 (as CLRALL makes them; the power-on contents need not be), every step without a reset keeps them 0.
(10_state.md R35, 40_obm.md R114, 70_reset_and_hazards.md R252) -/
def Obligations.StepKeepsBitmapPadding : Prop :=
  ∀ s t : State, s.geom.wf = true → BitmapClean s → step s = .next t → t.env.epoch = s.env.epoch → BitmapClean t

/-- pixaddr maps the pixels of the matrix one to one onto the words of a framebuffer. With a legal geometry every word
index below SIZE*SIZE is the address of exactly one pixel of the matrix, and every pixel of the matrix has an address
below SIZE*SIZE. (43_bpd.md R180, 00_scope.md R7, 00_scope.md R8) -/
def Obligations.PixelAddressIsABijection : Prop :=
  ∀ s : State, s.geom.wf = true →
    (∀ x y, x < s.geom.size → y < s.geom.size → pixaddr s x y < fbWords s) ∧
    (∀ k, k < fbWords s → ∃ x y, x < s.geom.size ∧ y < s.geom.size ∧ pixaddr s x y = k ∧
      ∀ x' y', x' < s.geom.size → y' < s.geom.size → pixaddr s x' y' = k → x' = x ∧ y' = y)

/-- bounce reverses the sign, strictly shrinks the magnitude, and is symmetric. For every elasticity from 0 to 255 and
every velocity: bounce(v) is tdiv(-v*ELASTICITY, 256), its magnitude is the floor of |v|*ELASTICITY/256, at most
|v|*255/256 and less than |v| unless v is 0; a non-zero result has the opposite sign; it is 0 whenever |v|*ELASTICITY
is below 256; and bounce(-v) = -bounce(v). (41_ppe.md R122) -/
def Obligations.BounceReversesAndShrinks : Prop :=
  ∀ (e : Nat) (v : Int), e ≤ 255 →
    bounce e v = Int.tdiv (-v * (e : Int)) 256 ∧
    (bounce e v).natAbs = v.natAbs * e / 256 ∧
    (bounce e v).natAbs * 256 ≤ v.natAbs * 255 ∧
    (v ≠ 0 → (bounce e v).natAbs < v.natAbs) ∧
    (0 < v → bounce e v ≤ 0) ∧ (v < 0 → 0 ≤ bounce e v) ∧ bounce e 0 = 0 ∧
    (v.natAbs * e < 256 → bounce e v = 0) ∧
    bounce e (-v) = -bounce e v

/-- The speed clamp rescales exactly when the square exceeds 65536, and never exceeds the bound. For every velocity:
if vx*vx + vy*vy is at most 65536 it is left alone; else each component keeps its sign or becomes 0 and its magnitude
is the largest k with k*k*v2 at most 65536 times the square of the component. The result has magnitudes at most 256
and a square at most 65536. (41_ppe.md R132) -/
def Obligations.SpeedClampIsExact : Prop :=
  ∀ vx vy : Int,
    let v2 := vx * vx + vy * vy
    let r := clampSpeed vx vy
    (v2 ≤ 65536 → r = (vx, vy)) ∧
    (65536 < v2 →
      r.1 = sgn vx * (r.1.natAbs : Int) ∧ r.2 = sgn vy * (r.2.natAbs : Int) ∧
      (r.1.natAbs : Int) * r.1.natAbs * v2 ≤ 65536 * (vx * vx) ∧
      65536 * (vx * vx) < ((r.1.natAbs : Int) + 1) * (r.1.natAbs + 1) * v2 ∧
      (r.2.natAbs : Int) * r.2.natAbs * v2 ≤ 65536 * (vy * vy) ∧
      65536 * (vy * vy) < ((r.2.natAbs : Int) + 1) * (r.2.natAbs + 1) * v2) ∧
    |r.1| ≤ 256 ∧ |r.2| ≤ 256 ∧ r.1 * r.1 + r.2 * r.2 ≤ 65536

/-- Through one slot the display latches exactly the row of the front buffer, in the plane of the slot. From every
state that satisfies Inv, at C.SETBIT with the shift-out engine drained, the consumer not halted, no ready token
visible and no slice allowed, running the slot in the listed order of the agents (2*ROWWORDS + 11 steps) appends to
the trace exactly one event: ROWOUT of this row and bit, whose line is the columns of the words of scan row `row` of
the front buffer in plane `bit`, with width max(OE_UNIT,1)*2^bit; the framebuffers, front and the redraw position are
as before. (43_bpd.md R182, 43_bpd.md R196, 43_bpd.md R199, 43_bpd.md R200, 43_bpd.md R201, 43_bpd.md R203) -/
def Obligations.SlotShowsTheFrontRow : Prop :=
  ∀ (s : State) (rest : List Action), Inv s → s.c.halt = false → s.c.cphase = 1 →
    s.c.shFifo = [] → s.c.shLine = [] → s.c.shHold = none → p2cAvail s = false → redrawEligible s = false →
    s.env.sched = slotSchedule s ++ rest →
    ∃ t, Host.Core.run Sys2Proof.core (2 * rowWords s + 11) s = .next t ∧
      t.c.trace = s.c.trace ++
        [Event.rowOut s.c.row s.c.bit (frontLine s s.c.row.toNat s.c.bit)
          (max s.c.oeUnit.toNat 1 * 2 ^ s.c.bit.toNat)] ∧
      t.c.cphase = 9 ∧ t.env.sched = rest ∧ t.p = s.p ∧
      t.c.fb0 = s.c.fb0 ∧ t.c.fb1 = s.c.fb1 ∧ t.c.front = s.c.front ∧ t.c.rstate = s.c.rstate ∧
      t.c.rowCursor = s.c.rowCursor ∧ t.c.partCursor = s.c.partCursor ∧
      t.c.redrawPending = s.c.redrawPending ∧ t.c.flipPending = s.c.flipPending
end

