-- ==== Sys2Proof/Laws/State.lean ====
section
/-! SUPPORT. One lemma per field per named update of the state, true by unfolding, so that no proof unfolds a record
update: what an update leaves, and what it writes. -/

namespace Sys2Proof.Machine

open Sys2Proof.Config

/-! ## `raiseP` -/

@[simp] theorem raiseP_geom (code : BitVec 8) (info : BitVec 24) (s : State) : (raiseP code info s).geom = s.geom := rfl
@[simp] theorem raiseP_env (code : BitVec 8) (info : BitVec 24) (s : State) : (raiseP code info s).env = s.env := rfl
@[simp] theorem raiseP_c (code : BitVec 8) (info : BitVec 24) (s : State) : (raiseP code info s).c = s.c := rfl
@[simp] theorem raiseP_p_arg0 (code : BitVec 8) (info : BitVec 24) (s : State) :
    (raiseP code info s).p.arg0 = s.p.arg0 := rfl
@[simp] theorem raiseP_p_arg1 (code : BitVec 8) (info : BitVec 24) (s : State) :
    (raiseP code info s).p.arg1 = s.p.arg1 := rfl
@[simp] theorem raiseP_p_arg2 (code : BitVec 8) (info : BitVec 24) (s : State) :
    (raiseP code info s).p.arg2 = s.p.arg2 := rfl
@[simp] theorem raiseP_p_result (code : BitVec 8) (info : BitVec 24) (s : State) :
    (raiseP code info s).p.result = s.p.result := rfl
@[simp] theorem raiseP_p_busy (code : BitVec 8) (info : BitVec 24) (s : State) :
    (raiseP code info s).p.busy = false := rfl
@[simp] theorem raiseP_p_halt (code : BitVec 8) (info : BitVec 24) (s : State) :
    (raiseP code info s).p.halt = true := rfl
@[simp] theorem raiseP_p_inflight (code : BitVec 8) (info : BitVec 24) (s : State) :
    (raiseP code info s).p.inflight = s.p.inflight := rfl
@[simp] theorem raiseP_p_warnTimeout (code : BitVec 8) (info : BitVec 24) (s : State) :
    (raiseP code info s).p.warnTimeout = s.p.warnTimeout := rfl
@[simp] theorem raiseP_p_lastTimeout (code : BitVec 8) (info : BitVec 24) (s : State) :
    (raiseP code info s).p.lastTimeout = s.p.lastTimeout := rfl
@[simp] theorem raiseP_p_pphase (code : BitVec 8) (info : BitVec 24) (s : State) :
    (raiseP code info s).p.pphase = 7 := rfl
@[simp] theorem raiseP_p_i (code : BitVec 8) (info : BitVec 24) (s : State) :
    (raiseP code info s).p.i = s.p.i := rfl
@[simp] theorem raiseP_p_cfg (code : BitVec 8) (info : BitVec 24) (s : State) :
    (raiseP code info s).p.cfg = s.p.cfg := rfl
@[simp] theorem raiseP_p_count (code : BitVec 8) (info : BitVec 24) (s : State) :
    (raiseP code info s).p.count = s.p.count := rfl
@[simp] theorem raiseP_p_timeout (code : BitVec 8) (info : BitVec 24) (s : State) :
    (raiseP code info s).p.timeout = s.p.timeout := rfl
@[simp] theorem raiseP_p_fault (code : BitVec 8) (info : BitVec 24) (s : State) :
    (raiseP code info s).p.fault = faultWord code info := rfl
@[simp] theorem raiseP_p_partIdx (code : BitVec 8) (info : BitVec 24) (s : State) :
    (raiseP code info s).p.partIdx = s.p.partIdx := rfl
@[simp] theorem raiseP_p_dropCnt (code : BitVec 8) (info : BitVec 24) (s : State) :
    (raiseP code info s).p.dropCnt = s.p.dropCnt := rfl
@[simp] theorem raiseP_p_part (code : BitVec 8) (info : BitVec 24) (s : State) :
    (raiseP code info s).p.part = s.p.part := rfl
@[simp] theorem raiseP_p_stgCount (code : BitVec 8) (info : BitVec 24) (s : State) :
    (raiseP code info s).p.stgCount = s.p.stgCount := rfl
@[simp] theorem raiseP_p_stg (code : BitVec 8) (info : BitVec 24) (s : State) :
    (raiseP code info s).p.stg = s.p.stg := rfl
@[simp] theorem raiseP_p_obm (code : BitVec 8) (info : BitVec 24) (s : State) :
    (raiseP code info s).p.obm = s.p.obm := rfl
@[simp] theorem raiseP_p_work (code : BitVec 8) (info : BitVec 24) (s : State) :
    (raiseP code info s).p.work = s.p.work := rfl
@[simp] theorem raiseP_p_opc (code : BitVec 8) (info : BitVec 24) (s : State) :
    (raiseP code info s).p.opc = s.p.opc := rfl
@[simp] theorem raiseP_p_x0 (code : BitVec 8) (info : BitVec 24) (s : State) :
    (raiseP code info s).p.x0 = s.p.x0 := rfl
@[simp] theorem raiseP_p_x1 (code : BitVec 8) (info : BitVec 24) (s : State) :
    (raiseP code info s).p.x1 = s.p.x1 := rfl
@[simp] theorem raiseP_p_x2 (code : BitVec 8) (info : BitVec 24) (s : State) :
    (raiseP code info s).p.x2 = s.p.x2 := rfl
@[simp] theorem raiseP_p_p2cReq (code : BitVec 8) (info : BitVec 24) (s : State) :
    (raiseP code info s).p.p2cReq = s.p.p2cReq := rfl
@[simp] theorem raiseP_p_p2cData (code : BitVec 8) (info : BitVec 24) (s : State) :
    (raiseP code info s).p.p2cData = s.p.p2cData := rfl
@[simp] theorem raiseP_p_c2pAck (code : BitVec 8) (info : BitVec 24) (s : State) :
    (raiseP code info s).p.c2pAck = s.p.c2pAck := rfl
@[simp] theorem raiseP_p_p2cAckS1 (code : BitVec 8) (info : BitVec 24) (s : State) :
    (raiseP code info s).p.p2cAckS1 = s.p.p2cAckS1 := rfl
@[simp] theorem raiseP_p_p2cAckS2 (code : BitVec 8) (info : BitVec 24) (s : State) :
    (raiseP code info s).p.p2cAckS2 = s.p.p2cAckS2 := rfl
@[simp] theorem raiseP_p_c2pReqS1 (code : BitVec 8) (info : BitVec 24) (s : State) :
    (raiseP code info s).p.c2pReqS1 = s.p.c2pReqS1 := rfl
@[simp] theorem raiseP_p_c2pReqS2 (code : BitVec 8) (info : BitVec 24) (s : State) :
    (raiseP code info s).p.c2pReqS2 = s.p.c2pReqS2 := rfl

/-! ## `accept` -/

@[simp] theorem accept_geom (opc : BitVec 8) (s : State) : (accept opc s).geom = s.geom := rfl
@[simp] theorem accept_env (opc : BitVec 8) (s : State) : (accept opc s).env = s.env := rfl
@[simp] theorem accept_c (opc : BitVec 8) (s : State) : (accept opc s).c = s.c := rfl
@[simp] theorem accept_p_arg0 (opc : BitVec 8) (s : State) :
    (accept opc s).p.arg0 = s.p.arg0 := rfl
@[simp] theorem accept_p_arg1 (opc : BitVec 8) (s : State) :
    (accept opc s).p.arg1 = s.p.arg1 := rfl
@[simp] theorem accept_p_arg2 (opc : BitVec 8) (s : State) :
    (accept opc s).p.arg2 = s.p.arg2 := rfl
@[simp] theorem accept_p_result (opc : BitVec 8) (s : State) :
    (accept opc s).p.result = s.p.result := rfl
@[simp] theorem accept_p_busy (opc : BitVec 8) (s : State) :
    (accept opc s).p.busy = true := rfl
@[simp] theorem accept_p_halt (opc : BitVec 8) (s : State) :
    (accept opc s).p.halt = s.p.halt := rfl
@[simp] theorem accept_p_inflight (opc : BitVec 8) (s : State) :
    (accept opc s).p.inflight = s.p.inflight := rfl
@[simp] theorem accept_p_warnTimeout (opc : BitVec 8) (s : State) :
    (accept opc s).p.warnTimeout = s.p.warnTimeout := rfl
@[simp] theorem accept_p_lastTimeout (opc : BitVec 8) (s : State) :
    (accept opc s).p.lastTimeout = s.p.lastTimeout := rfl
@[simp] theorem accept_p_pphase (opc : BitVec 8) (s : State) :
    (accept opc s).p.pphase = 5 := rfl
@[simp] theorem accept_p_i (opc : BitVec 8) (s : State) :
    (accept opc s).p.i = 0 := rfl
@[simp] theorem accept_p_cfg (opc : BitVec 8) (s : State) :
    (accept opc s).p.cfg = s.p.cfg := rfl
@[simp] theorem accept_p_count (opc : BitVec 8) (s : State) :
    (accept opc s).p.count = s.p.count := rfl
@[simp] theorem accept_p_timeout (opc : BitVec 8) (s : State) :
    (accept opc s).p.timeout = s.p.timeout := rfl
@[simp] theorem accept_p_fault (opc : BitVec 8) (s : State) :
    (accept opc s).p.fault = s.p.fault := rfl
@[simp] theorem accept_p_partIdx (opc : BitVec 8) (s : State) :
    (accept opc s).p.partIdx = s.p.partIdx := rfl
@[simp] theorem accept_p_dropCnt (opc : BitVec 8) (s : State) :
    (accept opc s).p.dropCnt = s.p.dropCnt := rfl
@[simp] theorem accept_p_part (opc : BitVec 8) (s : State) :
    (accept opc s).p.part = s.p.part := rfl
@[simp] theorem accept_p_stgCount (opc : BitVec 8) (s : State) :
    (accept opc s).p.stgCount = s.p.stgCount := rfl
@[simp] theorem accept_p_stg (opc : BitVec 8) (s : State) :
    (accept opc s).p.stg = s.p.stg := rfl
@[simp] theorem accept_p_obm (opc : BitVec 8) (s : State) :
    (accept opc s).p.obm = s.p.obm := rfl
@[simp] theorem accept_p_work (opc : BitVec 8) (s : State) :
    (accept opc s).p.work = s.p.work := rfl
@[simp] theorem accept_p_opc (opc : BitVec 8) (s : State) :
    (accept opc s).p.opc = opc := rfl
@[simp] theorem accept_p_x0 (opc : BitVec 8) (s : State) :
    (accept opc s).p.x0 = s.p.arg0 := rfl
@[simp] theorem accept_p_x1 (opc : BitVec 8) (s : State) :
    (accept opc s).p.x1 = s.p.arg1 := rfl
@[simp] theorem accept_p_x2 (opc : BitVec 8) (s : State) :
    (accept opc s).p.x2 = s.p.arg2 := rfl
@[simp] theorem accept_p_p2cReq (opc : BitVec 8) (s : State) :
    (accept opc s).p.p2cReq = s.p.p2cReq := rfl
@[simp] theorem accept_p_p2cData (opc : BitVec 8) (s : State) :
    (accept opc s).p.p2cData = s.p.p2cData := rfl
@[simp] theorem accept_p_c2pAck (opc : BitVec 8) (s : State) :
    (accept opc s).p.c2pAck = s.p.c2pAck := rfl
@[simp] theorem accept_p_p2cAckS1 (opc : BitVec 8) (s : State) :
    (accept opc s).p.p2cAckS1 = s.p.p2cAckS1 := rfl
@[simp] theorem accept_p_p2cAckS2 (opc : BitVec 8) (s : State) :
    (accept opc s).p.p2cAckS2 = s.p.p2cAckS2 := rfl
@[simp] theorem accept_p_c2pReqS1 (opc : BitVec 8) (s : State) :
    (accept opc s).p.c2pReqS1 = s.p.c2pReqS1 := rfl
@[simp] theorem accept_p_c2pReqS2 (opc : BitVec 8) (s : State) :
    (accept opc s).p.c2pReqS2 = s.p.c2pReqS2 := rfl

/-! ## `complete` -/

@[simp] theorem complete_geom (s : State) : (complete s).geom = s.geom := rfl
@[simp] theorem complete_env (s : State) : (complete s).env = s.env := rfl
@[simp] theorem complete_c (s : State) : (complete s).c = s.c := rfl
@[simp] theorem complete_p_arg0 (s : State) :
    (complete s).p.arg0 = s.p.arg0 := rfl
@[simp] theorem complete_p_arg1 (s : State) :
    (complete s).p.arg1 = s.p.arg1 := rfl
@[simp] theorem complete_p_arg2 (s : State) :
    (complete s).p.arg2 = s.p.arg2 := rfl
@[simp] theorem complete_p_result (s : State) :
    (complete s).p.result = s.p.result := rfl
@[simp] theorem complete_p_busy (s : State) :
    (complete s).p.busy = false := rfl
@[simp] theorem complete_p_halt (s : State) :
    (complete s).p.halt = s.p.halt := rfl
@[simp] theorem complete_p_inflight (s : State) :
    (complete s).p.inflight = s.p.inflight := rfl
@[simp] theorem complete_p_warnTimeout (s : State) :
    (complete s).p.warnTimeout = s.p.warnTimeout := rfl
@[simp] theorem complete_p_lastTimeout (s : State) :
    (complete s).p.lastTimeout = s.p.lastTimeout := rfl
@[simp] theorem complete_p_pphase (s : State) :
    (complete s).p.pphase = 0 := rfl
@[simp] theorem complete_p_i (s : State) :
    (complete s).p.i = 0 := rfl
@[simp] theorem complete_p_cfg (s : State) :
    (complete s).p.cfg = s.p.cfg := rfl
@[simp] theorem complete_p_count (s : State) :
    (complete s).p.count = s.p.count := rfl
@[simp] theorem complete_p_timeout (s : State) :
    (complete s).p.timeout = s.p.timeout := rfl
@[simp] theorem complete_p_fault (s : State) :
    (complete s).p.fault = s.p.fault := rfl
@[simp] theorem complete_p_partIdx (s : State) :
    (complete s).p.partIdx = s.p.partIdx := rfl
@[simp] theorem complete_p_dropCnt (s : State) :
    (complete s).p.dropCnt = s.p.dropCnt := rfl
@[simp] theorem complete_p_part (s : State) :
    (complete s).p.part = s.p.part := rfl
@[simp] theorem complete_p_stgCount (s : State) :
    (complete s).p.stgCount = s.p.stgCount := rfl
@[simp] theorem complete_p_stg (s : State) :
    (complete s).p.stg = s.p.stg := rfl
@[simp] theorem complete_p_obm (s : State) :
    (complete s).p.obm = s.p.obm := rfl
@[simp] theorem complete_p_work (s : State) :
    (complete s).p.work = s.p.work := rfl
@[simp] theorem complete_p_opc (s : State) :
    (complete s).p.opc = s.p.opc := rfl
@[simp] theorem complete_p_x0 (s : State) :
    (complete s).p.x0 = s.p.x0 := rfl
@[simp] theorem complete_p_x1 (s : State) :
    (complete s).p.x1 = s.p.x1 := rfl
@[simp] theorem complete_p_x2 (s : State) :
    (complete s).p.x2 = s.p.x2 := rfl
@[simp] theorem complete_p_p2cReq (s : State) :
    (complete s).p.p2cReq = s.p.p2cReq := rfl
@[simp] theorem complete_p_p2cData (s : State) :
    (complete s).p.p2cData = s.p.p2cData := rfl
@[simp] theorem complete_p_c2pAck (s : State) :
    (complete s).p.c2pAck = s.p.c2pAck := rfl
@[simp] theorem complete_p_p2cAckS1 (s : State) :
    (complete s).p.p2cAckS1 = s.p.p2cAckS1 := rfl
@[simp] theorem complete_p_p2cAckS2 (s : State) :
    (complete s).p.p2cAckS2 = s.p.p2cAckS2 := rfl
@[simp] theorem complete_p_c2pReqS1 (s : State) :
    (complete s).p.c2pReqS1 = s.p.c2pReqS1 := rfl
@[simp] theorem complete_p_c2pReqS2 (s : State) :
    (complete s).p.c2pReqS2 = s.p.c2pReqS2 := rfl

/-! ## `setObmRow` -/

@[simp] theorem setObmRow_geom (y : Nat) (row : Word) (s : State) : (setObmRow y row s).geom = s.geom := rfl
@[simp] theorem setObmRow_env (y : Nat) (row : Word) (s : State) : (setObmRow y row s).env = s.env := rfl
@[simp] theorem setObmRow_c (y : Nat) (row : Word) (s : State) : (setObmRow y row s).c = s.c := rfl
@[simp] theorem setObmRow_p_arg0 (y : Nat) (row : Word) (s : State) :
    (setObmRow y row s).p.arg0 = s.p.arg0 := rfl
@[simp] theorem setObmRow_p_arg1 (y : Nat) (row : Word) (s : State) :
    (setObmRow y row s).p.arg1 = s.p.arg1 := rfl
@[simp] theorem setObmRow_p_arg2 (y : Nat) (row : Word) (s : State) :
    (setObmRow y row s).p.arg2 = s.p.arg2 := rfl
@[simp] theorem setObmRow_p_result (y : Nat) (row : Word) (s : State) :
    (setObmRow y row s).p.result = s.p.result := rfl
@[simp] theorem setObmRow_p_busy (y : Nat) (row : Word) (s : State) :
    (setObmRow y row s).p.busy = s.p.busy := rfl
@[simp] theorem setObmRow_p_halt (y : Nat) (row : Word) (s : State) :
    (setObmRow y row s).p.halt = s.p.halt := rfl
@[simp] theorem setObmRow_p_inflight (y : Nat) (row : Word) (s : State) :
    (setObmRow y row s).p.inflight = s.p.inflight := rfl
@[simp] theorem setObmRow_p_warnTimeout (y : Nat) (row : Word) (s : State) :
    (setObmRow y row s).p.warnTimeout = s.p.warnTimeout := rfl
@[simp] theorem setObmRow_p_lastTimeout (y : Nat) (row : Word) (s : State) :
    (setObmRow y row s).p.lastTimeout = s.p.lastTimeout := rfl
@[simp] theorem setObmRow_p_pphase (y : Nat) (row : Word) (s : State) :
    (setObmRow y row s).p.pphase = s.p.pphase := rfl
@[simp] theorem setObmRow_p_i (y : Nat) (row : Word) (s : State) :
    (setObmRow y row s).p.i = s.p.i := rfl
@[simp] theorem setObmRow_p_cfg (y : Nat) (row : Word) (s : State) :
    (setObmRow y row s).p.cfg = s.p.cfg := rfl
@[simp] theorem setObmRow_p_count (y : Nat) (row : Word) (s : State) :
    (setObmRow y row s).p.count = s.p.count := rfl
@[simp] theorem setObmRow_p_timeout (y : Nat) (row : Word) (s : State) :
    (setObmRow y row s).p.timeout = s.p.timeout := rfl
@[simp] theorem setObmRow_p_fault (y : Nat) (row : Word) (s : State) :
    (setObmRow y row s).p.fault = s.p.fault := rfl
@[simp] theorem setObmRow_p_partIdx (y : Nat) (row : Word) (s : State) :
    (setObmRow y row s).p.partIdx = s.p.partIdx := rfl
@[simp] theorem setObmRow_p_dropCnt (y : Nat) (row : Word) (s : State) :
    (setObmRow y row s).p.dropCnt = s.p.dropCnt := rfl
@[simp] theorem setObmRow_p_part (y : Nat) (row : Word) (s : State) :
    (setObmRow y row s).p.part = s.p.part := rfl
@[simp] theorem setObmRow_p_stgCount (y : Nat) (row : Word) (s : State) :
    (setObmRow y row s).p.stgCount = s.p.stgCount := rfl
@[simp] theorem setObmRow_p_stg (y : Nat) (row : Word) (s : State) :
    (setObmRow y row s).p.stg = s.p.stg := rfl
@[simp] theorem setObmRow_p_obm (y : Nat) (row : Word) (s : State) :
    (setObmRow y row s).p.obm = Store.write none y row s.p.obm := rfl
@[simp] theorem setObmRow_p_work (y : Nat) (row : Word) (s : State) :
    (setObmRow y row s).p.work = s.p.work := rfl
@[simp] theorem setObmRow_p_opc (y : Nat) (row : Word) (s : State) :
    (setObmRow y row s).p.opc = s.p.opc := rfl
@[simp] theorem setObmRow_p_x0 (y : Nat) (row : Word) (s : State) :
    (setObmRow y row s).p.x0 = s.p.x0 := rfl
@[simp] theorem setObmRow_p_x1 (y : Nat) (row : Word) (s : State) :
    (setObmRow y row s).p.x1 = s.p.x1 := rfl
@[simp] theorem setObmRow_p_x2 (y : Nat) (row : Word) (s : State) :
    (setObmRow y row s).p.x2 = s.p.x2 := rfl
@[simp] theorem setObmRow_p_p2cReq (y : Nat) (row : Word) (s : State) :
    (setObmRow y row s).p.p2cReq = s.p.p2cReq := rfl
@[simp] theorem setObmRow_p_p2cData (y : Nat) (row : Word) (s : State) :
    (setObmRow y row s).p.p2cData = s.p.p2cData := rfl
@[simp] theorem setObmRow_p_c2pAck (y : Nat) (row : Word) (s : State) :
    (setObmRow y row s).p.c2pAck = s.p.c2pAck := rfl
@[simp] theorem setObmRow_p_p2cAckS1 (y : Nat) (row : Word) (s : State) :
    (setObmRow y row s).p.p2cAckS1 = s.p.p2cAckS1 := rfl
@[simp] theorem setObmRow_p_p2cAckS2 (y : Nat) (row : Word) (s : State) :
    (setObmRow y row s).p.p2cAckS2 = s.p.p2cAckS2 := rfl
@[simp] theorem setObmRow_p_c2pReqS1 (y : Nat) (row : Word) (s : State) :
    (setObmRow y row s).p.c2pReqS1 = s.p.c2pReqS1 := rfl
@[simp] theorem setObmRow_p_c2pReqS2 (y : Nat) (row : Word) (s : State) :
    (setObmRow y row s).p.c2pReqS2 = s.p.c2pReqS2 := rfl

/-! ## `writePart` -/

@[simp] theorem writePart_geom (k : Nat) (q : Particle) (s : State) : (writePart k q s).geom = s.geom := rfl
@[simp] theorem writePart_env (k : Nat) (q : Particle) (s : State) : (writePart k q s).env = s.env := rfl
@[simp] theorem writePart_c (k : Nat) (q : Particle) (s : State) : (writePart k q s).c = s.c := rfl
@[simp] theorem writePart_p_arg0 (k : Nat) (q : Particle) (s : State) :
    (writePart k q s).p.arg0 = s.p.arg0 := rfl
@[simp] theorem writePart_p_arg1 (k : Nat) (q : Particle) (s : State) :
    (writePart k q s).p.arg1 = s.p.arg1 := rfl
@[simp] theorem writePart_p_arg2 (k : Nat) (q : Particle) (s : State) :
    (writePart k q s).p.arg2 = s.p.arg2 := rfl
@[simp] theorem writePart_p_result (k : Nat) (q : Particle) (s : State) :
    (writePart k q s).p.result = s.p.result := rfl
@[simp] theorem writePart_p_busy (k : Nat) (q : Particle) (s : State) :
    (writePart k q s).p.busy = s.p.busy := rfl
@[simp] theorem writePart_p_halt (k : Nat) (q : Particle) (s : State) :
    (writePart k q s).p.halt = s.p.halt := rfl
@[simp] theorem writePart_p_inflight (k : Nat) (q : Particle) (s : State) :
    (writePart k q s).p.inflight = s.p.inflight := rfl
@[simp] theorem writePart_p_warnTimeout (k : Nat) (q : Particle) (s : State) :
    (writePart k q s).p.warnTimeout = s.p.warnTimeout := rfl
@[simp] theorem writePart_p_lastTimeout (k : Nat) (q : Particle) (s : State) :
    (writePart k q s).p.lastTimeout = s.p.lastTimeout := rfl
@[simp] theorem writePart_p_pphase (k : Nat) (q : Particle) (s : State) :
    (writePart k q s).p.pphase = s.p.pphase := rfl
@[simp] theorem writePart_p_i (k : Nat) (q : Particle) (s : State) :
    (writePart k q s).p.i = s.p.i := rfl
@[simp] theorem writePart_p_cfg (k : Nat) (q : Particle) (s : State) :
    (writePart k q s).p.cfg = s.p.cfg := rfl
@[simp] theorem writePart_p_count (k : Nat) (q : Particle) (s : State) :
    (writePart k q s).p.count = s.p.count := rfl
@[simp] theorem writePart_p_timeout (k : Nat) (q : Particle) (s : State) :
    (writePart k q s).p.timeout = s.p.timeout := rfl
@[simp] theorem writePart_p_fault (k : Nat) (q : Particle) (s : State) :
    (writePart k q s).p.fault = s.p.fault := rfl
@[simp] theorem writePart_p_partIdx (k : Nat) (q : Particle) (s : State) :
    (writePart k q s).p.partIdx = s.p.partIdx := rfl
@[simp] theorem writePart_p_dropCnt (k : Nat) (q : Particle) (s : State) :
    (writePart k q s).p.dropCnt = s.p.dropCnt := rfl
@[simp] theorem writePart_p_part (k : Nat) (q : Particle) (s : State) :
    (writePart k q s).p.part = Store.write none k q s.p.part := rfl
@[simp] theorem writePart_p_stgCount (k : Nat) (q : Particle) (s : State) :
    (writePart k q s).p.stgCount = s.p.stgCount := rfl
@[simp] theorem writePart_p_stg (k : Nat) (q : Particle) (s : State) :
    (writePart k q s).p.stg = s.p.stg := rfl
@[simp] theorem writePart_p_obm (k : Nat) (q : Particle) (s : State) :
    (writePart k q s).p.obm = s.p.obm := rfl
@[simp] theorem writePart_p_work (k : Nat) (q : Particle) (s : State) :
    (writePart k q s).p.work = s.p.work := rfl
@[simp] theorem writePart_p_opc (k : Nat) (q : Particle) (s : State) :
    (writePart k q s).p.opc = s.p.opc := rfl
@[simp] theorem writePart_p_x0 (k : Nat) (q : Particle) (s : State) :
    (writePart k q s).p.x0 = s.p.x0 := rfl
@[simp] theorem writePart_p_x1 (k : Nat) (q : Particle) (s : State) :
    (writePart k q s).p.x1 = s.p.x1 := rfl
@[simp] theorem writePart_p_x2 (k : Nat) (q : Particle) (s : State) :
    (writePart k q s).p.x2 = s.p.x2 := rfl
@[simp] theorem writePart_p_p2cReq (k : Nat) (q : Particle) (s : State) :
    (writePart k q s).p.p2cReq = s.p.p2cReq := rfl
@[simp] theorem writePart_p_p2cData (k : Nat) (q : Particle) (s : State) :
    (writePart k q s).p.p2cData = s.p.p2cData := rfl
@[simp] theorem writePart_p_c2pAck (k : Nat) (q : Particle) (s : State) :
    (writePart k q s).p.c2pAck = s.p.c2pAck := rfl
@[simp] theorem writePart_p_p2cAckS1 (k : Nat) (q : Particle) (s : State) :
    (writePart k q s).p.p2cAckS1 = s.p.p2cAckS1 := rfl
@[simp] theorem writePart_p_p2cAckS2 (k : Nat) (q : Particle) (s : State) :
    (writePart k q s).p.p2cAckS2 = s.p.p2cAckS2 := rfl
@[simp] theorem writePart_p_c2pReqS1 (k : Nat) (q : Particle) (s : State) :
    (writePart k q s).p.c2pReqS1 = s.p.c2pReqS1 := rfl
@[simp] theorem writePart_p_c2pReqS2 (k : Nat) (q : Particle) (s : State) :
    (writePart k q s).p.c2pReqS2 = s.p.c2pReqS2 := rfl

/-! ## `stgWrite` -/

@[simp] theorem stgWrite_geom (k : Nat) (e : Staged) (s : State) : (stgWrite k e s).geom = s.geom := rfl
@[simp] theorem stgWrite_env (k : Nat) (e : Staged) (s : State) : (stgWrite k e s).env = s.env := rfl
@[simp] theorem stgWrite_c (k : Nat) (e : Staged) (s : State) : (stgWrite k e s).c = s.c := rfl
@[simp] theorem stgWrite_p_arg0 (k : Nat) (e : Staged) (s : State) :
    (stgWrite k e s).p.arg0 = s.p.arg0 := rfl
@[simp] theorem stgWrite_p_arg1 (k : Nat) (e : Staged) (s : State) :
    (stgWrite k e s).p.arg1 = s.p.arg1 := rfl
@[simp] theorem stgWrite_p_arg2 (k : Nat) (e : Staged) (s : State) :
    (stgWrite k e s).p.arg2 = s.p.arg2 := rfl
@[simp] theorem stgWrite_p_result (k : Nat) (e : Staged) (s : State) :
    (stgWrite k e s).p.result = s.p.result := rfl
@[simp] theorem stgWrite_p_busy (k : Nat) (e : Staged) (s : State) :
    (stgWrite k e s).p.busy = s.p.busy := rfl
@[simp] theorem stgWrite_p_halt (k : Nat) (e : Staged) (s : State) :
    (stgWrite k e s).p.halt = s.p.halt := rfl
@[simp] theorem stgWrite_p_inflight (k : Nat) (e : Staged) (s : State) :
    (stgWrite k e s).p.inflight = s.p.inflight := rfl
@[simp] theorem stgWrite_p_warnTimeout (k : Nat) (e : Staged) (s : State) :
    (stgWrite k e s).p.warnTimeout = s.p.warnTimeout := rfl
@[simp] theorem stgWrite_p_lastTimeout (k : Nat) (e : Staged) (s : State) :
    (stgWrite k e s).p.lastTimeout = s.p.lastTimeout := rfl
@[simp] theorem stgWrite_p_pphase (k : Nat) (e : Staged) (s : State) :
    (stgWrite k e s).p.pphase = s.p.pphase := rfl
@[simp] theorem stgWrite_p_i (k : Nat) (e : Staged) (s : State) :
    (stgWrite k e s).p.i = s.p.i := rfl
@[simp] theorem stgWrite_p_cfg (k : Nat) (e : Staged) (s : State) :
    (stgWrite k e s).p.cfg = s.p.cfg := rfl
@[simp] theorem stgWrite_p_count (k : Nat) (e : Staged) (s : State) :
    (stgWrite k e s).p.count = s.p.count := rfl
@[simp] theorem stgWrite_p_timeout (k : Nat) (e : Staged) (s : State) :
    (stgWrite k e s).p.timeout = s.p.timeout := rfl
@[simp] theorem stgWrite_p_fault (k : Nat) (e : Staged) (s : State) :
    (stgWrite k e s).p.fault = s.p.fault := rfl
@[simp] theorem stgWrite_p_partIdx (k : Nat) (e : Staged) (s : State) :
    (stgWrite k e s).p.partIdx = s.p.partIdx := rfl
@[simp] theorem stgWrite_p_dropCnt (k : Nat) (e : Staged) (s : State) :
    (stgWrite k e s).p.dropCnt = s.p.dropCnt := rfl
@[simp] theorem stgWrite_p_part (k : Nat) (e : Staged) (s : State) :
    (stgWrite k e s).p.part = s.p.part := rfl
@[simp] theorem stgWrite_p_stgCount (k : Nat) (e : Staged) (s : State) :
    (stgWrite k e s).p.stgCount = s.p.stgCount := rfl
@[simp] theorem stgWrite_p_stg (k : Nat) (e : Staged) (s : State) :
    (stgWrite k e s).p.stg = Store.write none k e s.p.stg := rfl
@[simp] theorem stgWrite_p_obm (k : Nat) (e : Staged) (s : State) :
    (stgWrite k e s).p.obm = s.p.obm := rfl
@[simp] theorem stgWrite_p_work (k : Nat) (e : Staged) (s : State) :
    (stgWrite k e s).p.work = s.p.work := rfl
@[simp] theorem stgWrite_p_opc (k : Nat) (e : Staged) (s : State) :
    (stgWrite k e s).p.opc = s.p.opc := rfl
@[simp] theorem stgWrite_p_x0 (k : Nat) (e : Staged) (s : State) :
    (stgWrite k e s).p.x0 = s.p.x0 := rfl
@[simp] theorem stgWrite_p_x1 (k : Nat) (e : Staged) (s : State) :
    (stgWrite k e s).p.x1 = s.p.x1 := rfl
@[simp] theorem stgWrite_p_x2 (k : Nat) (e : Staged) (s : State) :
    (stgWrite k e s).p.x2 = s.p.x2 := rfl
@[simp] theorem stgWrite_p_p2cReq (k : Nat) (e : Staged) (s : State) :
    (stgWrite k e s).p.p2cReq = s.p.p2cReq := rfl
@[simp] theorem stgWrite_p_p2cData (k : Nat) (e : Staged) (s : State) :
    (stgWrite k e s).p.p2cData = s.p.p2cData := rfl
@[simp] theorem stgWrite_p_c2pAck (k : Nat) (e : Staged) (s : State) :
    (stgWrite k e s).p.c2pAck = s.p.c2pAck := rfl
@[simp] theorem stgWrite_p_p2cAckS1 (k : Nat) (e : Staged) (s : State) :
    (stgWrite k e s).p.p2cAckS1 = s.p.p2cAckS1 := rfl
@[simp] theorem stgWrite_p_p2cAckS2 (k : Nat) (e : Staged) (s : State) :
    (stgWrite k e s).p.p2cAckS2 = s.p.p2cAckS2 := rfl
@[simp] theorem stgWrite_p_c2pReqS1 (k : Nat) (e : Staged) (s : State) :
    (stgWrite k e s).p.c2pReqS1 = s.p.c2pReqS1 := rfl
@[simp] theorem stgWrite_p_c2pReqS2 (k : Nat) (e : Staged) (s : State) :
    (stgWrite k e s).p.c2pReqS2 = s.p.c2pReqS2 := rfl

/-! ## `sendReady` -/

@[simp] theorem sendReady_geom (s : State) : (sendReady s).geom = s.geom := rfl
@[simp] theorem sendReady_env (s : State) : (sendReady s).env = s.env := rfl
@[simp] theorem sendReady_c (s : State) : (sendReady s).c = s.c := rfl
@[simp] theorem sendReady_p_arg0 (s : State) :
    (sendReady s).p.arg0 = s.p.arg0 := rfl
@[simp] theorem sendReady_p_arg1 (s : State) :
    (sendReady s).p.arg1 = s.p.arg1 := rfl
@[simp] theorem sendReady_p_arg2 (s : State) :
    (sendReady s).p.arg2 = s.p.arg2 := rfl
@[simp] theorem sendReady_p_result (s : State) :
    (sendReady s).p.result = s.p.result := rfl
@[simp] theorem sendReady_p_busy (s : State) :
    (sendReady s).p.busy = s.p.busy := rfl
@[simp] theorem sendReady_p_halt (s : State) :
    (sendReady s).p.halt = s.p.halt := rfl
@[simp] theorem sendReady_p_inflight (s : State) :
    (sendReady s).p.inflight = true := rfl
@[simp] theorem sendReady_p_warnTimeout (s : State) :
    (sendReady s).p.warnTimeout = s.p.warnTimeout := rfl
@[simp] theorem sendReady_p_lastTimeout (s : State) :
    (sendReady s).p.lastTimeout = s.p.lastTimeout := rfl
@[simp] theorem sendReady_p_pphase (s : State) :
    (sendReady s).p.pphase = s.p.pphase := rfl
@[simp] theorem sendReady_p_i (s : State) :
    (sendReady s).p.i = s.p.i := rfl
@[simp] theorem sendReady_p_cfg (s : State) :
    (sendReady s).p.cfg = s.p.cfg := rfl
@[simp] theorem sendReady_p_count (s : State) :
    (sendReady s).p.count = s.p.count := rfl
@[simp] theorem sendReady_p_timeout (s : State) :
    (sendReady s).p.timeout = s.p.timeout := rfl
@[simp] theorem sendReady_p_fault (s : State) :
    (sendReady s).p.fault = s.p.fault := rfl
@[simp] theorem sendReady_p_partIdx (s : State) :
    (sendReady s).p.partIdx = s.p.partIdx := rfl
@[simp] theorem sendReady_p_dropCnt (s : State) :
    (sendReady s).p.dropCnt = s.p.dropCnt := rfl
@[simp] theorem sendReady_p_part (s : State) :
    (sendReady s).p.part = s.p.part := rfl
@[simp] theorem sendReady_p_stgCount (s : State) :
    (sendReady s).p.stgCount = s.p.stgCount := rfl
@[simp] theorem sendReady_p_stg (s : State) :
    (sendReady s).p.stg = s.p.stg := rfl
@[simp] theorem sendReady_p_obm (s : State) :
    (sendReady s).p.obm = s.p.obm := rfl
@[simp] theorem sendReady_p_work (s : State) :
    (sendReady s).p.work = s.p.work := rfl
@[simp] theorem sendReady_p_opc (s : State) :
    (sendReady s).p.opc = s.p.opc := rfl
@[simp] theorem sendReady_p_x0 (s : State) :
    (sendReady s).p.x0 = s.p.x0 := rfl
@[simp] theorem sendReady_p_x1 (s : State) :
    (sendReady s).p.x1 = s.p.x1 := rfl
@[simp] theorem sendReady_p_x2 (s : State) :
    (sendReady s).p.x2 = s.p.x2 := rfl
@[simp] theorem sendReady_p_p2cReq (s : State) :
    (sendReady s).p.p2cReq = !s.p.p2cReq := rfl
@[simp] theorem sendReady_p_p2cData (s : State) :
    (sendReady s).p.p2cData = tokReadyWord := rfl
@[simp] theorem sendReady_p_c2pAck (s : State) :
    (sendReady s).p.c2pAck = s.p.c2pAck := rfl
@[simp] theorem sendReady_p_p2cAckS1 (s : State) :
    (sendReady s).p.p2cAckS1 = s.p.p2cAckS1 := rfl
@[simp] theorem sendReady_p_p2cAckS2 (s : State) :
    (sendReady s).p.p2cAckS2 = s.p.p2cAckS2 := rfl
@[simp] theorem sendReady_p_c2pReqS1 (s : State) :
    (sendReady s).p.c2pReqS1 = s.p.c2pReqS1 := rfl
@[simp] theorem sendReady_p_c2pReqS2 (s : State) :
    (sendReady s).p.c2pReqS2 = s.p.c2pReqS2 := rfl

/-! ## `timeoutWarning` -/

@[simp] theorem timeoutWarning_geom (s : State) : (timeoutWarning s).geom = s.geom := rfl
@[simp] theorem timeoutWarning_env (s : State) : (timeoutWarning s).env = s.env := rfl
@[simp] theorem timeoutWarning_c (s : State) : (timeoutWarning s).c = s.c := rfl
@[simp] theorem timeoutWarning_p_arg0 (s : State) :
    (timeoutWarning s).p.arg0 = s.p.arg0 := rfl
@[simp] theorem timeoutWarning_p_arg1 (s : State) :
    (timeoutWarning s).p.arg1 = s.p.arg1 := rfl
@[simp] theorem timeoutWarning_p_arg2 (s : State) :
    (timeoutWarning s).p.arg2 = s.p.arg2 := rfl
@[simp] theorem timeoutWarning_p_result (s : State) :
    (timeoutWarning s).p.result = s.p.result := rfl
@[simp] theorem timeoutWarning_p_busy (s : State) :
    (timeoutWarning s).p.busy = s.p.busy := rfl
@[simp] theorem timeoutWarning_p_halt (s : State) :
    (timeoutWarning s).p.halt = s.p.halt := rfl
@[simp] theorem timeoutWarning_p_inflight (s : State) :
    (timeoutWarning s).p.inflight = s.p.inflight := rfl
@[simp] theorem timeoutWarning_p_warnTimeout (s : State) :
    (timeoutWarning s).p.warnTimeout = true := rfl
@[simp] theorem timeoutWarning_p_lastTimeout (s : State) :
    (timeoutWarning s).p.lastTimeout = true := rfl
@[simp] theorem timeoutWarning_p_pphase (s : State) :
    (timeoutWarning s).p.pphase = s.p.pphase := rfl
@[simp] theorem timeoutWarning_p_i (s : State) :
    (timeoutWarning s).p.i = s.p.i := rfl
@[simp] theorem timeoutWarning_p_cfg (s : State) :
    (timeoutWarning s).p.cfg = s.p.cfg := rfl
@[simp] theorem timeoutWarning_p_count (s : State) :
    (timeoutWarning s).p.count = s.p.count := rfl
@[simp] theorem timeoutWarning_p_timeout (s : State) :
    (timeoutWarning s).p.timeout = s.p.timeout := rfl
@[simp] theorem timeoutWarning_p_fault (s : State) :
    (timeoutWarning s).p.fault = s.p.fault := rfl
@[simp] theorem timeoutWarning_p_partIdx (s : State) :
    (timeoutWarning s).p.partIdx = s.p.partIdx := rfl
@[simp] theorem timeoutWarning_p_dropCnt (s : State) :
    (timeoutWarning s).p.dropCnt = s.p.dropCnt + 1 := rfl
@[simp] theorem timeoutWarning_p_part (s : State) :
    (timeoutWarning s).p.part = s.p.part := rfl
@[simp] theorem timeoutWarning_p_stgCount (s : State) :
    (timeoutWarning s).p.stgCount = s.p.stgCount := rfl
@[simp] theorem timeoutWarning_p_stg (s : State) :
    (timeoutWarning s).p.stg = s.p.stg := rfl
@[simp] theorem timeoutWarning_p_obm (s : State) :
    (timeoutWarning s).p.obm = s.p.obm := rfl
@[simp] theorem timeoutWarning_p_work (s : State) :
    (timeoutWarning s).p.work = s.p.work := rfl
@[simp] theorem timeoutWarning_p_opc (s : State) :
    (timeoutWarning s).p.opc = s.p.opc := rfl
@[simp] theorem timeoutWarning_p_x0 (s : State) :
    (timeoutWarning s).p.x0 = s.p.x0 := rfl
@[simp] theorem timeoutWarning_p_x1 (s : State) :
    (timeoutWarning s).p.x1 = s.p.x1 := rfl
@[simp] theorem timeoutWarning_p_x2 (s : State) :
    (timeoutWarning s).p.x2 = s.p.x2 := rfl
@[simp] theorem timeoutWarning_p_p2cReq (s : State) :
    (timeoutWarning s).p.p2cReq = s.p.p2cReq := rfl
@[simp] theorem timeoutWarning_p_p2cData (s : State) :
    (timeoutWarning s).p.p2cData = s.p.p2cData := rfl
@[simp] theorem timeoutWarning_p_c2pAck (s : State) :
    (timeoutWarning s).p.c2pAck = s.p.c2pAck := rfl
@[simp] theorem timeoutWarning_p_p2cAckS1 (s : State) :
    (timeoutWarning s).p.p2cAckS1 = s.p.p2cAckS1 := rfl
@[simp] theorem timeoutWarning_p_p2cAckS2 (s : State) :
    (timeoutWarning s).p.p2cAckS2 = s.p.p2cAckS2 := rfl
@[simp] theorem timeoutWarning_p_c2pReqS1 (s : State) :
    (timeoutWarning s).p.c2pReqS1 = s.p.c2pReqS1 := rfl
@[simp] theorem timeoutWarning_p_c2pReqS2 (s : State) :
    (timeoutWarning s).p.c2pReqS2 = s.p.c2pReqS2 := rfl

/-! ## `waiting` -/

@[simp] theorem waiting_geom (s : State) : (waiting s).geom = s.geom := rfl
@[simp] theorem waiting_env (s : State) : (waiting s).env = s.env := rfl
@[simp] theorem waiting_c (s : State) : (waiting s).c = s.c := rfl
@[simp] theorem waiting_p_arg0 (s : State) :
    (waiting s).p.arg0 = s.p.arg0 := rfl
@[simp] theorem waiting_p_arg1 (s : State) :
    (waiting s).p.arg1 = s.p.arg1 := rfl
@[simp] theorem waiting_p_arg2 (s : State) :
    (waiting s).p.arg2 = s.p.arg2 := rfl
@[simp] theorem waiting_p_result (s : State) :
    (waiting s).p.result = s.p.result := rfl
@[simp] theorem waiting_p_busy (s : State) :
    (waiting s).p.busy = s.p.busy := rfl
@[simp] theorem waiting_p_halt (s : State) :
    (waiting s).p.halt = s.p.halt := rfl
@[simp] theorem waiting_p_inflight (s : State) :
    (waiting s).p.inflight = s.p.inflight := rfl
@[simp] theorem waiting_p_warnTimeout (s : State) :
    (waiting s).p.warnTimeout = s.p.warnTimeout := rfl
@[simp] theorem waiting_p_lastTimeout (s : State) :
    (waiting s).p.lastTimeout = s.p.lastTimeout := rfl
@[simp] theorem waiting_p_pphase (s : State) :
    (waiting s).p.pphase = 6 := rfl
@[simp] theorem waiting_p_i (s : State) :
    (waiting s).p.i = s.p.i := rfl
@[simp] theorem waiting_p_cfg (s : State) :
    (waiting s).p.cfg = s.p.cfg := rfl
@[simp] theorem waiting_p_count (s : State) :
    (waiting s).p.count = s.p.count := rfl
@[simp] theorem waiting_p_timeout (s : State) :
    (waiting s).p.timeout = s.p.timeout := rfl
@[simp] theorem waiting_p_fault (s : State) :
    (waiting s).p.fault = s.p.fault := rfl
@[simp] theorem waiting_p_partIdx (s : State) :
    (waiting s).p.partIdx = s.p.partIdx := rfl
@[simp] theorem waiting_p_dropCnt (s : State) :
    (waiting s).p.dropCnt = s.p.dropCnt := rfl
@[simp] theorem waiting_p_part (s : State) :
    (waiting s).p.part = s.p.part := rfl
@[simp] theorem waiting_p_stgCount (s : State) :
    (waiting s).p.stgCount = s.p.stgCount := rfl
@[simp] theorem waiting_p_stg (s : State) :
    (waiting s).p.stg = s.p.stg := rfl
@[simp] theorem waiting_p_obm (s : State) :
    (waiting s).p.obm = s.p.obm := rfl
@[simp] theorem waiting_p_work (s : State) :
    (waiting s).p.work = s.p.work := rfl
@[simp] theorem waiting_p_opc (s : State) :
    (waiting s).p.opc = s.p.opc := rfl
@[simp] theorem waiting_p_x0 (s : State) :
    (waiting s).p.x0 = s.p.x0 := rfl
@[simp] theorem waiting_p_x1 (s : State) :
    (waiting s).p.x1 = s.p.x1 := rfl
@[simp] theorem waiting_p_x2 (s : State) :
    (waiting s).p.x2 = s.p.x2 := rfl
@[simp] theorem waiting_p_p2cReq (s : State) :
    (waiting s).p.p2cReq = s.p.p2cReq := rfl
@[simp] theorem waiting_p_p2cData (s : State) :
    (waiting s).p.p2cData = s.p.p2cData := rfl
@[simp] theorem waiting_p_c2pAck (s : State) :
    (waiting s).p.c2pAck = s.p.c2pAck := rfl
@[simp] theorem waiting_p_p2cAckS1 (s : State) :
    (waiting s).p.p2cAckS1 = s.p.p2cAckS1 := rfl
@[simp] theorem waiting_p_p2cAckS2 (s : State) :
    (waiting s).p.p2cAckS2 = s.p.p2cAckS2 := rfl
@[simp] theorem waiting_p_c2pReqS1 (s : State) :
    (waiting s).p.c2pReqS1 = s.p.c2pReqS1 := rfl
@[simp] theorem waiting_p_c2pReqS2 (s : State) :
    (waiting s).p.c2pReqS2 = s.p.c2pReqS2 := rfl

/-! ## `raiseC` -/

@[simp] theorem raiseC_geom (code : BitVec 8) (info : BitVec 24) (s : State) : (raiseC code info s).geom = s.geom := rfl
@[simp] theorem raiseC_env (code : BitVec 8) (info : BitVec 24) (s : State) : (raiseC code info s).env = s.env := rfl
@[simp] theorem raiseC_p (code : BitVec 8) (info : BitVec 24) (s : State) : (raiseC code info s).p = s.p := rfl
@[simp] theorem raiseC_c_en (code : BitVec 8) (info : BitVec 24) (s : State) :
    (raiseC code info s).c.en = s.c.en := rfl
@[simp] theorem raiseC_c_halt (code : BitVec 8) (info : BitVec 24) (s : State) :
    (raiseC code info s).c.halt = true := rfl
@[simp] theorem raiseC_c_cphase (code : BitVec 8) (info : BitVec 24) (s : State) :
    (raiseC code info s).c.cphase = 11 := rfl
@[simp] theorem raiseC_c_row (code : BitVec 8) (info : BitVec 24) (s : State) :
    (raiseC code info s).c.row = s.c.row := rfl
@[simp] theorem raiseC_c_bit (code : BitVec 8) (info : BitVec 24) (s : State) :
    (raiseC code info s).c.bit = s.c.bit := rfl
@[simp] theorem raiseC_c_cfg (code : BitVec 8) (info : BitVec 24) (s : State) :
    (raiseC code info s).c.cfg = s.c.cfg := rfl
@[simp] theorem raiseC_c_oeUnit (code : BitVec 8) (info : BitVec 24) (s : State) :
    (raiseC code info s).c.oeUnit = s.c.oeUnit := rfl
@[simp] theorem raiseC_c_frameCount (code : BitVec 8) (info : BitVec 24) (s : State) :
    (raiseC code info s).c.frameCount = s.c.frameCount := rfl
@[simp] theorem raiseC_c_fault (code : BitVec 8) (info : BitVec 24) (s : State) :
    (raiseC code info s).c.fault = faultWord code info := rfl
@[simp] theorem raiseC_c_rstate (code : BitVec 8) (info : BitVec 24) (s : State) :
    (raiseC code info s).c.rstate = s.c.rstate := rfl
@[simp] theorem raiseC_c_rowCursor (code : BitVec 8) (info : BitVec 24) (s : State) :
    (raiseC code info s).c.rowCursor = s.c.rowCursor := rfl
@[simp] theorem raiseC_c_partCursor (code : BitVec 8) (info : BitVec 24) (s : State) :
    (raiseC code info s).c.partCursor = s.c.partCursor := rfl
@[simp] theorem raiseC_c_fb0 (code : BitVec 8) (info : BitVec 24) (s : State) :
    (raiseC code info s).c.fb0 = s.c.fb0 := rfl
@[simp] theorem raiseC_c_fb1 (code : BitVec 8) (info : BitVec 24) (s : State) :
    (raiseC code info s).c.fb1 = s.c.fb1 := rfl
@[simp] theorem raiseC_c_front (code : BitVec 8) (info : BitVec 24) (s : State) :
    (raiseC code info s).c.front = s.c.front := rfl
@[simp] theorem raiseC_c_redrawPending (code : BitVec 8) (info : BitVec 24) (s : State) :
    (raiseC code info s).c.redrawPending = s.c.redrawPending := rfl
@[simp] theorem raiseC_c_flipPending (code : BitVec 8) (info : BitVec 24) (s : State) :
    (raiseC code info s).c.flipPending = s.c.flipPending := rfl
@[simp] theorem raiseC_c_dmaBusy (code : BitVec 8) (info : BitVec 24) (s : State) :
    (raiseC code info s).c.dmaBusy = s.c.dmaBusy := rfl
@[simp] theorem raiseC_c_dmaIdx (code : BitVec 8) (info : BitVec 24) (s : State) :
    (raiseC code info s).c.dmaIdx = s.c.dmaIdx := rfl
@[simp] theorem raiseC_c_dmaRem (code : BitVec 8) (info : BitVec 24) (s : State) :
    (raiseC code info s).c.dmaRem = s.c.dmaRem := rfl
@[simp] theorem raiseC_c_shBit (code : BitVec 8) (info : BitVec 24) (s : State) :
    (raiseC code info s).c.shBit = s.c.shBit := rfl
@[simp] theorem raiseC_c_shFifo (code : BitVec 8) (info : BitVec 24) (s : State) :
    (raiseC code info s).c.shFifo = s.c.shFifo := rfl
@[simp] theorem raiseC_c_shLine (code : BitVec 8) (info : BitVec 24) (s : State) :
    (raiseC code info s).c.shLine = s.c.shLine := rfl
@[simp] theorem raiseC_c_shHold (code : BitVec 8) (info : BitVec 24) (s : State) :
    (raiseC code info s).c.shHold = s.c.shHold := rfl
@[simp] theorem raiseC_c_shCount (code : BitVec 8) (info : BitVec 24) (s : State) :
    (raiseC code info s).c.shCount = s.c.shCount := rfl
@[simp] theorem raiseC_c_rsBusy (code : BitVec 8) (info : BitVec 24) (s : State) :
    (raiseC code info s).c.rsBusy = s.c.rsBusy := rfl
@[simp] theorem raiseC_c_rsRow (code : BitVec 8) (info : BitVec 24) (s : State) :
    (raiseC code info s).c.rsRow = s.c.rsRow := rfl
@[simp] theorem raiseC_c_rsBit (code : BitVec 8) (info : BitVec 24) (s : State) :
    (raiseC code info s).c.rsBit = s.c.rsBit := rfl
@[simp] theorem raiseC_c_rsWidth (code : BitVec 8) (info : BitVec 24) (s : State) :
    (raiseC code info s).c.rsWidth = s.c.rsWidth := rfl
@[simp] theorem raiseC_c_trace (code : BitVec 8) (info : BitVec 24) (s : State) :
    (raiseC code info s).c.trace = s.c.trace ++ [Event.blank] := rfl
@[simp] theorem raiseC_c_c2pReq (code : BitVec 8) (info : BitVec 24) (s : State) :
    (raiseC code info s).c.c2pReq = s.c.c2pReq := rfl
@[simp] theorem raiseC_c_c2pData (code : BitVec 8) (info : BitVec 24) (s : State) :
    (raiseC code info s).c.c2pData = s.c.c2pData := rfl
@[simp] theorem raiseC_c_p2cAck (code : BitVec 8) (info : BitVec 24) (s : State) :
    (raiseC code info s).c.p2cAck = s.c.p2cAck := rfl
@[simp] theorem raiseC_c_p2cReqS1 (code : BitVec 8) (info : BitVec 24) (s : State) :
    (raiseC code info s).c.p2cReqS1 = s.c.p2cReqS1 := rfl
@[simp] theorem raiseC_c_p2cReqS2 (code : BitVec 8) (info : BitVec 24) (s : State) :
    (raiseC code info s).c.p2cReqS2 = s.c.p2cReqS2 := rfl
@[simp] theorem raiseC_c_c2pAckS1 (code : BitVec 8) (info : BitVec 24) (s : State) :
    (raiseC code info s).c.c2pAckS1 = s.c.c2pAckS1 := rfl
@[simp] theorem raiseC_c_c2pAckS2 (code : BitVec 8) (info : BitVec 24) (s : State) :
    (raiseC code info s).c.c2pAckS2 = s.c.c2pAckS2 := rfl

/-! ## `toPhase` -/

@[simp] theorem toPhase_geom (code : BitVec 4) (s : State) : (toPhase code s).geom = s.geom := rfl
@[simp] theorem toPhase_env (code : BitVec 4) (s : State) : (toPhase code s).env = s.env := rfl
@[simp] theorem toPhase_p (code : BitVec 4) (s : State) : (toPhase code s).p = s.p := rfl
@[simp] theorem toPhase_c_en (code : BitVec 4) (s : State) :
    (toPhase code s).c.en = s.c.en := rfl
@[simp] theorem toPhase_c_halt (code : BitVec 4) (s : State) :
    (toPhase code s).c.halt = s.c.halt := rfl
@[simp] theorem toPhase_c_cphase (code : BitVec 4) (s : State) :
    (toPhase code s).c.cphase = code := rfl
@[simp] theorem toPhase_c_row (code : BitVec 4) (s : State) :
    (toPhase code s).c.row = s.c.row := rfl
@[simp] theorem toPhase_c_bit (code : BitVec 4) (s : State) :
    (toPhase code s).c.bit = s.c.bit := rfl
@[simp] theorem toPhase_c_cfg (code : BitVec 4) (s : State) :
    (toPhase code s).c.cfg = s.c.cfg := rfl
@[simp] theorem toPhase_c_oeUnit (code : BitVec 4) (s : State) :
    (toPhase code s).c.oeUnit = s.c.oeUnit := rfl
@[simp] theorem toPhase_c_frameCount (code : BitVec 4) (s : State) :
    (toPhase code s).c.frameCount = s.c.frameCount := rfl
@[simp] theorem toPhase_c_fault (code : BitVec 4) (s : State) :
    (toPhase code s).c.fault = s.c.fault := rfl
@[simp] theorem toPhase_c_rstate (code : BitVec 4) (s : State) :
    (toPhase code s).c.rstate = s.c.rstate := rfl
@[simp] theorem toPhase_c_rowCursor (code : BitVec 4) (s : State) :
    (toPhase code s).c.rowCursor = s.c.rowCursor := rfl
@[simp] theorem toPhase_c_partCursor (code : BitVec 4) (s : State) :
    (toPhase code s).c.partCursor = s.c.partCursor := rfl
@[simp] theorem toPhase_c_fb0 (code : BitVec 4) (s : State) :
    (toPhase code s).c.fb0 = s.c.fb0 := rfl
@[simp] theorem toPhase_c_fb1 (code : BitVec 4) (s : State) :
    (toPhase code s).c.fb1 = s.c.fb1 := rfl
@[simp] theorem toPhase_c_front (code : BitVec 4) (s : State) :
    (toPhase code s).c.front = s.c.front := rfl
@[simp] theorem toPhase_c_redrawPending (code : BitVec 4) (s : State) :
    (toPhase code s).c.redrawPending = s.c.redrawPending := rfl
@[simp] theorem toPhase_c_flipPending (code : BitVec 4) (s : State) :
    (toPhase code s).c.flipPending = s.c.flipPending := rfl
@[simp] theorem toPhase_c_dmaBusy (code : BitVec 4) (s : State) :
    (toPhase code s).c.dmaBusy = s.c.dmaBusy := rfl
@[simp] theorem toPhase_c_dmaIdx (code : BitVec 4) (s : State) :
    (toPhase code s).c.dmaIdx = s.c.dmaIdx := rfl
@[simp] theorem toPhase_c_dmaRem (code : BitVec 4) (s : State) :
    (toPhase code s).c.dmaRem = s.c.dmaRem := rfl
@[simp] theorem toPhase_c_shBit (code : BitVec 4) (s : State) :
    (toPhase code s).c.shBit = s.c.shBit := rfl
@[simp] theorem toPhase_c_shFifo (code : BitVec 4) (s : State) :
    (toPhase code s).c.shFifo = s.c.shFifo := rfl
@[simp] theorem toPhase_c_shLine (code : BitVec 4) (s : State) :
    (toPhase code s).c.shLine = s.c.shLine := rfl
@[simp] theorem toPhase_c_shHold (code : BitVec 4) (s : State) :
    (toPhase code s).c.shHold = s.c.shHold := rfl
@[simp] theorem toPhase_c_shCount (code : BitVec 4) (s : State) :
    (toPhase code s).c.shCount = s.c.shCount := rfl
@[simp] theorem toPhase_c_rsBusy (code : BitVec 4) (s : State) :
    (toPhase code s).c.rsBusy = s.c.rsBusy := rfl
@[simp] theorem toPhase_c_rsRow (code : BitVec 4) (s : State) :
    (toPhase code s).c.rsRow = s.c.rsRow := rfl
@[simp] theorem toPhase_c_rsBit (code : BitVec 4) (s : State) :
    (toPhase code s).c.rsBit = s.c.rsBit := rfl
@[simp] theorem toPhase_c_rsWidth (code : BitVec 4) (s : State) :
    (toPhase code s).c.rsWidth = s.c.rsWidth := rfl
@[simp] theorem toPhase_c_trace (code : BitVec 4) (s : State) :
    (toPhase code s).c.trace = s.c.trace := rfl
@[simp] theorem toPhase_c_c2pReq (code : BitVec 4) (s : State) :
    (toPhase code s).c.c2pReq = s.c.c2pReq := rfl
@[simp] theorem toPhase_c_c2pData (code : BitVec 4) (s : State) :
    (toPhase code s).c.c2pData = s.c.c2pData := rfl
@[simp] theorem toPhase_c_p2cAck (code : BitVec 4) (s : State) :
    (toPhase code s).c.p2cAck = s.c.p2cAck := rfl
@[simp] theorem toPhase_c_p2cReqS1 (code : BitVec 4) (s : State) :
    (toPhase code s).c.p2cReqS1 = s.c.p2cReqS1 := rfl
@[simp] theorem toPhase_c_p2cReqS2 (code : BitVec 4) (s : State) :
    (toPhase code s).c.p2cReqS2 = s.c.p2cReqS2 := rfl
@[simp] theorem toPhase_c_c2pAckS1 (code : BitVec 4) (s : State) :
    (toPhase code s).c.c2pAckS1 = s.c.c2pAckS1 := rfl
@[simp] theorem toPhase_c_c2pAckS2 (code : BitVec 4) (s : State) :
    (toPhase code s).c.c2pAckS2 = s.c.c2pAckS2 := rfl

/-! ## `redrawComplete` -/

@[simp] theorem redrawComplete_geom (s : State) : (redrawComplete s).geom = s.geom := rfl
@[simp] theorem redrawComplete_env (s : State) : (redrawComplete s).env = s.env := rfl
@[simp] theorem redrawComplete_p (s : State) : (redrawComplete s).p = s.p := rfl
@[simp] theorem redrawComplete_c_en (s : State) :
    (redrawComplete s).c.en = s.c.en := rfl
@[simp] theorem redrawComplete_c_halt (s : State) :
    (redrawComplete s).c.halt = s.c.halt := rfl
@[simp] theorem redrawComplete_c_cphase (s : State) :
    (redrawComplete s).c.cphase = s.c.cphase := rfl
@[simp] theorem redrawComplete_c_row (s : State) :
    (redrawComplete s).c.row = s.c.row := rfl
@[simp] theorem redrawComplete_c_bit (s : State) :
    (redrawComplete s).c.bit = s.c.bit := rfl
@[simp] theorem redrawComplete_c_cfg (s : State) :
    (redrawComplete s).c.cfg = s.c.cfg := rfl
@[simp] theorem redrawComplete_c_oeUnit (s : State) :
    (redrawComplete s).c.oeUnit = s.c.oeUnit := rfl
@[simp] theorem redrawComplete_c_frameCount (s : State) :
    (redrawComplete s).c.frameCount = s.c.frameCount := rfl
@[simp] theorem redrawComplete_c_fault (s : State) :
    (redrawComplete s).c.fault = s.c.fault := rfl
@[simp] theorem redrawComplete_c_rstate (s : State) :
    (redrawComplete s).c.rstate = 0 := rfl
@[simp] theorem redrawComplete_c_rowCursor (s : State) :
    (redrawComplete s).c.rowCursor = s.c.rowCursor := rfl
@[simp] theorem redrawComplete_c_partCursor (s : State) :
    (redrawComplete s).c.partCursor = s.c.partCursor := rfl
@[simp] theorem redrawComplete_c_fb0 (s : State) :
    (redrawComplete s).c.fb0 = s.c.fb0 := rfl
@[simp] theorem redrawComplete_c_fb1 (s : State) :
    (redrawComplete s).c.fb1 = s.c.fb1 := rfl
@[simp] theorem redrawComplete_c_front (s : State) :
    (redrawComplete s).c.front = s.c.front := rfl
@[simp] theorem redrawComplete_c_redrawPending (s : State) :
    (redrawComplete s).c.redrawPending = false := rfl
@[simp] theorem redrawComplete_c_flipPending (s : State) :
    (redrawComplete s).c.flipPending = true := rfl
@[simp] theorem redrawComplete_c_dmaBusy (s : State) :
    (redrawComplete s).c.dmaBusy = s.c.dmaBusy := rfl
@[simp] theorem redrawComplete_c_dmaIdx (s : State) :
    (redrawComplete s).c.dmaIdx = s.c.dmaIdx := rfl
@[simp] theorem redrawComplete_c_dmaRem (s : State) :
    (redrawComplete s).c.dmaRem = s.c.dmaRem := rfl
@[simp] theorem redrawComplete_c_shBit (s : State) :
    (redrawComplete s).c.shBit = s.c.shBit := rfl
@[simp] theorem redrawComplete_c_shFifo (s : State) :
    (redrawComplete s).c.shFifo = s.c.shFifo := rfl
@[simp] theorem redrawComplete_c_shLine (s : State) :
    (redrawComplete s).c.shLine = s.c.shLine := rfl
@[simp] theorem redrawComplete_c_shHold (s : State) :
    (redrawComplete s).c.shHold = s.c.shHold := rfl
@[simp] theorem redrawComplete_c_shCount (s : State) :
    (redrawComplete s).c.shCount = s.c.shCount := rfl
@[simp] theorem redrawComplete_c_rsBusy (s : State) :
    (redrawComplete s).c.rsBusy = s.c.rsBusy := rfl
@[simp] theorem redrawComplete_c_rsRow (s : State) :
    (redrawComplete s).c.rsRow = s.c.rsRow := rfl
@[simp] theorem redrawComplete_c_rsBit (s : State) :
    (redrawComplete s).c.rsBit = s.c.rsBit := rfl
@[simp] theorem redrawComplete_c_rsWidth (s : State) :
    (redrawComplete s).c.rsWidth = s.c.rsWidth := rfl
@[simp] theorem redrawComplete_c_trace (s : State) :
    (redrawComplete s).c.trace = s.c.trace := rfl
@[simp] theorem redrawComplete_c_c2pReq (s : State) :
    (redrawComplete s).c.c2pReq = s.c.c2pReq := rfl
@[simp] theorem redrawComplete_c_c2pData (s : State) :
    (redrawComplete s).c.c2pData = s.c.c2pData := rfl
@[simp] theorem redrawComplete_c_p2cAck (s : State) :
    (redrawComplete s).c.p2cAck = s.c.p2cAck := rfl
@[simp] theorem redrawComplete_c_p2cReqS1 (s : State) :
    (redrawComplete s).c.p2cReqS1 = s.c.p2cReqS1 := rfl
@[simp] theorem redrawComplete_c_p2cReqS2 (s : State) :
    (redrawComplete s).c.p2cReqS2 = s.c.p2cReqS2 := rfl
@[simp] theorem redrawComplete_c_c2pAckS1 (s : State) :
    (redrawComplete s).c.c2pAckS1 = s.c.c2pAckS1 := rfl
@[simp] theorem redrawComplete_c_c2pAckS2 (s : State) :
    (redrawComplete s).c.c2pAckS2 = s.c.c2pAckS2 := rfl

/-! ## `fbWrite` -/

@[simp] theorem fbWrite_geom (b : Bool) (k : Nat) (v : Word) (s : State) : (fbWrite b k v s).geom = s.geom := by
  cases b <;> rfl
@[simp] theorem fbWrite_env (b : Bool) (k : Nat) (v : Word) (s : State) : (fbWrite b k v s).env = s.env := by
  cases b <;> rfl
@[simp] theorem fbWrite_p (b : Bool) (k : Nat) (v : Word) (s : State) : (fbWrite b k v s).p = s.p := by
  cases b <;> rfl
@[simp] theorem fbWrite_c_en (b : Bool) (k : Nat) (v : Word) (s : State) :
    (fbWrite b k v s).c.en = s.c.en := by cases b <;> rfl
@[simp] theorem fbWrite_c_halt (b : Bool) (k : Nat) (v : Word) (s : State) :
    (fbWrite b k v s).c.halt = s.c.halt := by cases b <;> rfl
@[simp] theorem fbWrite_c_cphase (b : Bool) (k : Nat) (v : Word) (s : State) :
    (fbWrite b k v s).c.cphase = s.c.cphase := by cases b <;> rfl
@[simp] theorem fbWrite_c_row (b : Bool) (k : Nat) (v : Word) (s : State) :
    (fbWrite b k v s).c.row = s.c.row := by cases b <;> rfl
@[simp] theorem fbWrite_c_bit (b : Bool) (k : Nat) (v : Word) (s : State) :
    (fbWrite b k v s).c.bit = s.c.bit := by cases b <;> rfl
@[simp] theorem fbWrite_c_cfg (b : Bool) (k : Nat) (v : Word) (s : State) :
    (fbWrite b k v s).c.cfg = s.c.cfg := by cases b <;> rfl
@[simp] theorem fbWrite_c_oeUnit (b : Bool) (k : Nat) (v : Word) (s : State) :
    (fbWrite b k v s).c.oeUnit = s.c.oeUnit := by cases b <;> rfl
@[simp] theorem fbWrite_c_frameCount (b : Bool) (k : Nat) (v : Word) (s : State) :
    (fbWrite b k v s).c.frameCount = s.c.frameCount := by cases b <;> rfl
@[simp] theorem fbWrite_c_fault (b : Bool) (k : Nat) (v : Word) (s : State) :
    (fbWrite b k v s).c.fault = s.c.fault := by cases b <;> rfl
@[simp] theorem fbWrite_c_rstate (b : Bool) (k : Nat) (v : Word) (s : State) :
    (fbWrite b k v s).c.rstate = s.c.rstate := by cases b <;> rfl
@[simp] theorem fbWrite_c_rowCursor (b : Bool) (k : Nat) (v : Word) (s : State) :
    (fbWrite b k v s).c.rowCursor = s.c.rowCursor := by cases b <;> rfl
@[simp] theorem fbWrite_c_partCursor (b : Bool) (k : Nat) (v : Word) (s : State) :
    (fbWrite b k v s).c.partCursor = s.c.partCursor := by cases b <;> rfl
@[simp] theorem fbWrite_c_front (b : Bool) (k : Nat) (v : Word) (s : State) :
    (fbWrite b k v s).c.front = s.c.front := by cases b <;> rfl
@[simp] theorem fbWrite_c_redrawPending (b : Bool) (k : Nat) (v : Word) (s : State) :
    (fbWrite b k v s).c.redrawPending = s.c.redrawPending := by cases b <;> rfl
@[simp] theorem fbWrite_c_flipPending (b : Bool) (k : Nat) (v : Word) (s : State) :
    (fbWrite b k v s).c.flipPending = s.c.flipPending := by cases b <;> rfl
@[simp] theorem fbWrite_c_dmaBusy (b : Bool) (k : Nat) (v : Word) (s : State) :
    (fbWrite b k v s).c.dmaBusy = s.c.dmaBusy := by cases b <;> rfl
@[simp] theorem fbWrite_c_dmaIdx (b : Bool) (k : Nat) (v : Word) (s : State) :
    (fbWrite b k v s).c.dmaIdx = s.c.dmaIdx := by cases b <;> rfl
@[simp] theorem fbWrite_c_dmaRem (b : Bool) (k : Nat) (v : Word) (s : State) :
    (fbWrite b k v s).c.dmaRem = s.c.dmaRem := by cases b <;> rfl
@[simp] theorem fbWrite_c_shBit (b : Bool) (k : Nat) (v : Word) (s : State) :
    (fbWrite b k v s).c.shBit = s.c.shBit := by cases b <;> rfl
@[simp] theorem fbWrite_c_shFifo (b : Bool) (k : Nat) (v : Word) (s : State) :
    (fbWrite b k v s).c.shFifo = s.c.shFifo := by cases b <;> rfl
@[simp] theorem fbWrite_c_shLine (b : Bool) (k : Nat) (v : Word) (s : State) :
    (fbWrite b k v s).c.shLine = s.c.shLine := by cases b <;> rfl
@[simp] theorem fbWrite_c_shHold (b : Bool) (k : Nat) (v : Word) (s : State) :
    (fbWrite b k v s).c.shHold = s.c.shHold := by cases b <;> rfl
@[simp] theorem fbWrite_c_shCount (b : Bool) (k : Nat) (v : Word) (s : State) :
    (fbWrite b k v s).c.shCount = s.c.shCount := by cases b <;> rfl
@[simp] theorem fbWrite_c_rsBusy (b : Bool) (k : Nat) (v : Word) (s : State) :
    (fbWrite b k v s).c.rsBusy = s.c.rsBusy := by cases b <;> rfl
@[simp] theorem fbWrite_c_rsRow (b : Bool) (k : Nat) (v : Word) (s : State) :
    (fbWrite b k v s).c.rsRow = s.c.rsRow := by cases b <;> rfl
@[simp] theorem fbWrite_c_rsBit (b : Bool) (k : Nat) (v : Word) (s : State) :
    (fbWrite b k v s).c.rsBit = s.c.rsBit := by cases b <;> rfl
@[simp] theorem fbWrite_c_rsWidth (b : Bool) (k : Nat) (v : Word) (s : State) :
    (fbWrite b k v s).c.rsWidth = s.c.rsWidth := by cases b <;> rfl
@[simp] theorem fbWrite_c_trace (b : Bool) (k : Nat) (v : Word) (s : State) :
    (fbWrite b k v s).c.trace = s.c.trace := by cases b <;> rfl
@[simp] theorem fbWrite_c_c2pReq (b : Bool) (k : Nat) (v : Word) (s : State) :
    (fbWrite b k v s).c.c2pReq = s.c.c2pReq := by cases b <;> rfl
@[simp] theorem fbWrite_c_c2pData (b : Bool) (k : Nat) (v : Word) (s : State) :
    (fbWrite b k v s).c.c2pData = s.c.c2pData := by cases b <;> rfl
@[simp] theorem fbWrite_c_p2cAck (b : Bool) (k : Nat) (v : Word) (s : State) :
    (fbWrite b k v s).c.p2cAck = s.c.p2cAck := by cases b <;> rfl
@[simp] theorem fbWrite_c_p2cReqS1 (b : Bool) (k : Nat) (v : Word) (s : State) :
    (fbWrite b k v s).c.p2cReqS1 = s.c.p2cReqS1 := by cases b <;> rfl
@[simp] theorem fbWrite_c_p2cReqS2 (b : Bool) (k : Nat) (v : Word) (s : State) :
    (fbWrite b k v s).c.p2cReqS2 = s.c.p2cReqS2 := by cases b <;> rfl
@[simp] theorem fbWrite_c_c2pAckS1 (b : Bool) (k : Nat) (v : Word) (s : State) :
    (fbWrite b k v s).c.c2pAckS1 = s.c.c2pAckS1 := by cases b <;> rfl
@[simp] theorem fbWrite_c_c2pAckS2 (b : Bool) (k : Nat) (v : Word) (s : State) :
    (fbWrite b k v s).c.c2pAckS2 = s.c.c2pAckS2 := by cases b <;> rfl

/-! ## The free inputs write the environment only -/

@[simp] theorem popNat_geom (s : State) : (popNat s).2.geom = s.geom := by
  unfold popNat
  split <;> rfl
@[simp] theorem popNat_p (s : State) : (popNat s).2.p = s.p := by
  unfold popNat
  split <;> rfl
@[simp] theorem popNat_c (s : State) : (popNat s).2.c = s.c := by
  unfold popNat
  split <;> rfl
@[simp] theorem popNat_env_sched (s : State) : (popNat s).2.env.sched = s.env.sched := by
  unfold popNat
  split <;> rfl
@[simp] theorem popNat_env_epoch (s : State) : (popNat s).2.env.epoch = s.env.epoch := by
  unfold popNat
  split <;> rfl
@[simp] theorem popNat_env_hostMem (s : State) : (popNat s).2.env.hostMem = s.env.hostMem := by
  unfold popNat
  split <;> rfl
@[simp] theorem popNat_env_background (s : State) : (popNat s).2.env.background = s.env.background := by
  unfold popNat
  split <;> rfl
@[simp] theorem popNat_env_pRdata (s : State) : (popNat s).2.env.pRdata = s.env.pRdata := by
  unfold popNat
  split <;> rfl
@[simp] theorem popNat_env_cRdata (s : State) : (popNat s).2.env.cRdata = s.env.cRdata := by
  unfold popNat
  split <;> rfl
@[simp] theorem draw_geom (hi : Nat) (s : State) : (draw hi s).2.geom = s.geom := popNat_geom s
@[simp] theorem draw_p (hi : Nat) (s : State) : (draw hi s).2.p = s.p := popNat_p s
@[simp] theorem draw_c (hi : Nat) (s : State) : (draw hi s).2.c = s.c := popNat_c s
@[simp] theorem draw_env_sched (hi : Nat) (s : State) : (draw hi s).2.env.sched = s.env.sched := popNat_env_sched s
@[simp] theorem draw_env_epoch (hi : Nat) (s : State) : (draw hi s).2.env.epoch = s.env.epoch := popNat_env_epoch s
@[simp] theorem draw_env_hostMem (hi : Nat) (s : State) : (draw hi s).2.env.hostMem = s.env.hostMem := popNat_env_hostMem s
@[simp] theorem draw_env_background (hi : Nat) (s : State) : (draw hi s).2.env.background = s.env.background := popNat_env_background s
@[simp] theorem draw_env_pRdata (hi : Nat) (s : State) : (draw hi s).2.env.pRdata = s.env.pRdata := popNat_env_pRdata s
@[simp] theorem draw_env_cRdata (hi : Nat) (s : State) : (draw hi s).2.env.cRdata = s.env.cRdata := popNat_env_cRdata s
@[simp] theorem choose_geom (s : State) : (choose s).2.geom = s.geom := popNat_geom s
@[simp] theorem choose_p (s : State) : (choose s).2.p = s.p := popNat_p s
@[simp] theorem choose_c (s : State) : (choose s).2.c = s.c := popNat_c s
@[simp] theorem choose_env_sched (s : State) : (choose s).2.env.sched = s.env.sched := popNat_env_sched s
@[simp] theorem choose_env_epoch (s : State) : (choose s).2.env.epoch = s.env.epoch := popNat_env_epoch s
@[simp] theorem choose_env_hostMem (s : State) : (choose s).2.env.hostMem = s.env.hostMem := popNat_env_hostMem s
@[simp] theorem choose_env_background (s : State) : (choose s).2.env.background = s.env.background := popNat_env_background s
@[simp] theorem choose_env_pRdata (s : State) : (choose s).2.env.pRdata = s.env.pRdata := popNat_env_pRdata s
@[simp] theorem choose_env_cRdata (s : State) : (choose s).2.env.cRdata = s.env.cRdata := popNat_env_cRdata s
@[simp] theorem freeWord_geom (s : State) : (freeWord s).2.geom = s.geom := popNat_geom s
@[simp] theorem freeWord_p (s : State) : (freeWord s).2.p = s.p := popNat_p s
@[simp] theorem freeWord_c (s : State) : (freeWord s).2.c = s.c := popNat_c s
@[simp] theorem freeWord_env_sched (s : State) : (freeWord s).2.env.sched = s.env.sched := popNat_env_sched s
@[simp] theorem freeWord_env_epoch (s : State) : (freeWord s).2.env.epoch = s.env.epoch := popNat_env_epoch s
@[simp] theorem freeWord_env_hostMem (s : State) : (freeWord s).2.env.hostMem = s.env.hostMem := popNat_env_hostMem s
@[simp] theorem freeWord_env_background (s : State) : (freeWord s).2.env.background = s.env.background := popNat_env_background s
@[simp] theorem freeWord_env_pRdata (s : State) : (freeWord s).2.env.pRdata = s.env.pRdata := popNat_env_pRdata s
@[simp] theorem freeWord_env_cRdata (s : State) : (freeWord s).2.env.cRdata = s.env.cRdata := popNat_env_cRdata s

end Sys2Proof.Machine
end

