-- ==== Sys2Proof/Laws/Store.lean ====
section
/-! SUPPORT. What the memory operations do: a read after a write, and that every write keeps the canonical form. -/

namespace Sys2Proof.Machine

theorem Store.above_mono {α : Type} {lo hi : Nat} (h : lo ≤ hi) {t : Store α} (ht : Store.above hi t = true) :
    Store.above lo t = true := by
  simp only [Store.above, List.all_eq_true, decide_eq_true_eq] at ht ⊢
  exact fun e he => lt_of_le_of_lt h (ht e he)

theorem Store.find_of_above {α : Type} {k : Nat} :
    ∀ {t : Store α}, Store.above k t = true → Store.find k t = none
  | [], _ => rfl
  | (k', v) :: t, h => by
    simp only [Store.above, List.all_cons, Bool.and_eq_true, decide_eq_true_eq] at h
    simp only [Store.find, if_neg (Nat.ne_of_lt h.1)]
    exact Store.find_of_above h.2

theorem Store.find_put {α : Type} (j k : Nat) (v : α) :
    ∀ t : Store α, Store.find j (Store.put k v t) = if j = k then some v else Store.find j t
  | [] => rfl
  | (k', v') :: t => by
    by_cases h1 : k < k'
    · simp [Store.put, h1, Store.find]
    · by_cases h2 : k = k'
      · subst h2
        by_cases h3 : j = k <;> simp [Store.put, Store.find, h3]
      · simp only [Store.put, if_neg h1, if_neg h2, Store.find, Store.find_put j k v t]
        by_cases h3 : j = k'
        · subst h3
          simp [Ne.symm h2]
        · simp [h3]

theorem Store.find_drop {α : Type} (j k : Nat) :
    ∀ t : Store α, Store.find j (Store.drop k t) = if j = k then none else Store.find j t
  | [] => by simp [Store.drop, Store.find]
  | (k', v') :: t => by
    by_cases h : k = k'
    · subst h
      simp only [Store.drop, if_pos, Store.find_drop j k t, Store.find]
      by_cases h3 : j = k <;> simp [h3]
    · simp only [Store.drop, if_neg h, Store.find, Store.find_drop j k t]
      by_cases h3 : j = k'
      · subst h3
        simp [Ne.symm h]
      · simp [h3]

/-- A read after a write, in a memory with no value at an unlisted index. -/
theorem Store.find_write_none {α : Type} [DecidableEq α] (j k : Nat) (v : α) (t : Store α) :
    Store.find j (Store.write none k v t) = if j = k then some v else Store.find j t := by
  simp [Store.write, Store.find_put]

/-- A read after a write, in a memory whose unlisted indices read as `d`. -/
theorem Store.find_write_some {α : Type} [DecidableEq α] (d : α) (j k : Nat) (v : α) (t : Store α) :
    (Store.find j (Store.write (some d) k v t)).getD d = if j = k then v else (Store.find j t).getD d := by
  by_cases h : d = v
  · subst h
    simp only [Store.write, if_pos, Store.find_drop]
    by_cases hj : j = k <;> simp [hj]
  · simp only [Store.write, Option.some.injEq, if_neg h, Store.find_put]
    by_cases hj : j = k <;> simp [hj]

theorem Store.above_put {α : Type} {lo k : Nat} {v : α} (hk : lo < k) :
    ∀ {t : Store α}, Store.above lo t = true → Store.above lo (Store.put k v t) = true
  | [], _ => by simp [Store.put, Store.above, hk]
  | (k', v') :: t, h => by
    simp only [Store.above, List.all_cons, Bool.and_eq_true, decide_eq_true_eq] at h
    unfold Store.put
    split
    · simpa [Store.above, hk, h.1] using h.2
    · split
      · simpa [Store.above, hk] using h.2
      · have := Store.above_put (v := v) hk (t := t) (by simpa [Store.above] using h.2)
        simpa [Store.above, h.1] using this

theorem Store.above_drop {α : Type} {lo k : Nat} :
    ∀ {t : Store α}, Store.above lo t = true → Store.above lo (Store.drop k t) = true
  | [], _ => rfl
  | (k', v') :: t, h => by
    simp only [Store.above, List.all_cons, Bool.and_eq_true, decide_eq_true_eq] at h
    have ht : Store.above lo (Store.drop k t) = true := Store.above_drop (by simpa [Store.above] using h.2)
    unfold Store.drop
    split
    · exact ht
    · simpa [Store.above, h.1] using ht

theorem Store.wf_put {α : Type} [DecidableEq α] {unlisted : Option α} {k : Nat} {v : α} (hv : unlisted ≠ some v) :
    ∀ {t : Store α}, Store.wf unlisted t = true → Store.wf unlisted (Store.put k v t) = true
  | [], _ => by simp [Store.put, Store.wf, Store.above, hv]
  | (k', v') :: t, h => by
    simp only [Store.wf, Bool.and_eq_true, decide_eq_true_eq] at h
    obtain ⟨⟨h1, h2⟩, h3⟩ := h
    unfold Store.put
    split
    · rename_i hk
      simp only [Store.wf, Bool.and_eq_true, decide_eq_true_eq]
      refine ⟨⟨?_, hv⟩, ⟨h1, h2⟩, h3⟩
      have := Store.above_mono (Nat.le_of_lt hk) h1
      simpa [Store.above, hk] using this
    · split
      · rename_i hk
        subst hk
        simp only [Store.wf, Bool.and_eq_true, decide_eq_true_eq]
        exact ⟨⟨h1, hv⟩, h3⟩
      · rename_i hk1 hk2
        simp only [Store.wf, Bool.and_eq_true, decide_eq_true_eq]
        exact ⟨⟨Store.above_put (by omega) h1, h2⟩, Store.wf_put hv h3⟩

theorem Store.wf_drop {α : Type} [DecidableEq α] {unlisted : Option α} {k : Nat} :
    ∀ {t : Store α}, Store.wf unlisted t = true → Store.wf unlisted (Store.drop k t) = true
  | [], _ => rfl
  | (k', v') :: t, h => by
    simp only [Store.wf, Bool.and_eq_true, decide_eq_true_eq] at h
    obtain ⟨⟨h1, h2⟩, h3⟩ := h
    unfold Store.drop
    split
    · exact Store.wf_drop h3
    · simp only [Store.wf, Bool.and_eq_true, decide_eq_true_eq]
      exact ⟨⟨Store.above_drop h1, h2⟩, Store.wf_drop h3⟩

/-- A write keeps the canonical form. -/
theorem Store.wf_write {α : Type} [DecidableEq α] {unlisted : Option α} (k : Nat) (v : α) {t : Store α}
    (h : Store.wf unlisted t = true) : Store.wf unlisted (Store.write unlisted k v t) = true := by
  unfold Store.write
  split
  · exact Store.wf_drop h
  · rename_i hv
    exact Store.wf_put hv h

/-- Canonical memories are equal data as soon as they read equal. -/
theorem Store.ext_of_find {α : Type} [DecidableEq α] {unlisted : Option α} :
    ∀ {t u : Store α}, Store.wf unlisted t = true → Store.wf unlisted u = true →
      (∀ k, Store.find k t = Store.find k u) → t = u
  | [], [], _, _, _ => rfl
  | [], (k, v) :: u, _, _, h => by simpa [Store.find] using h k
  | (k, v) :: t, [], _, _, h => by simpa [Store.find] using h k
  | (k, v) :: t, (k', v') :: u, ht, hu, h => by
    simp only [Store.wf, Bool.and_eq_true, decide_eq_true_eq] at ht hu
    have hkk : k = k' := by
      by_contra hne
      rcases Nat.lt_or_gt_of_ne hne with hlt | hlt
      · have hn : Store.find k u = none := Store.find_of_above (Store.above_mono (Nat.le_of_lt hlt) hu.1.1)
        simpa [Store.find, hne, hn] using h k
      · have hn : Store.find k' t = none := Store.find_of_above (Store.above_mono (Nat.le_of_lt hlt) ht.1.1)
        simpa [Store.find, Ne.symm hne, hn] using (h k').symm
    subst hkk
    have hv : v = v' := by simpa [Store.find] using h k
    subst hv
    have : t = u := Store.ext_of_find ht.2 hu.2 fun j => by
      by_cases hj : j = k
      · subst hj
        rw [Store.find_of_above ht.1.1, Store.find_of_above hu.1.1]
      · simpa [Store.find, hj] using h j
    rw [this]

end Sys2Proof.Machine
end

