-- ==== Sys2Proof/Laws/Memory.lean ====
section
/-! SUPPORT. Each memory of the block: what a read gives after a write, what a shared operation of the bitmap can do,
and that every memory operation keeps `Memory.wf`. -/

namespace Sys2Proof.Machine

open Sys2Proof.Config

/-! ## Read after write -/

theorem readPart_writePart (j k : Nat) (q : Particle) (s : State) :
    readPart (writePart k q s) j = if j = k then q else readPart s j := by
  simp only [readPart, writePart_p_part, writePart_env, Store.find_write_none]
  by_cases h : j = k <;> simp [h]

theorem stgRead_stgWrite (j k : Nat) (e : Staged) (s : State) :
    stgRead (stgWrite k e s) j = if j = k then e else stgRead s j := by
  simp only [stgRead, stgWrite_p_stg, stgWrite_env, Store.find_write_none]
  by_cases h : j = k <;> simp [h]

theorem fbRead_fbWrite (b c : Bool) (j k : Nat) (v : Word) (s : State) :
    fbRead (fbWrite b k v s) c j = if c = b ∧ j = k then v else fbRead s c j := by
  cases b <;> cases c <;> simp [fbRead, fbWrite, Store.find_write_some]

theorem obmRow_setObmRow (j y : Nat) (row : Word) (s : State) :
    obmRow (setObmRow y row s) j = if j = y then row else obmRow s j := by
  simp only [obmRow, setObmRow_p_obm, setObmRow_env, Store.find_write_none]
  by_cases h : j = y <;> simp [h]

@[simp] theorem obmRow_writePart (k : Nat) (q : Particle) (s : State) (y : Nat) :
    obmRow (writePart k q s) y = obmRow s y := rfl

@[simp] theorem obmBit_writePart (k : Nat) (q : Particle) (s : State) (x y : Nat) :
    obmBit (writePart k q s) x y = obmBit s x y := rfl

@[simp] theorem readPart_setObmRow (y : Nat) (row : Word) (s : State) (k : Nat) :
    readPart (setObmRow y row s) k = readPart s k := rfl

/-- The bit that `withBit` writes, and the others. -/
theorem withBit_getLsbD (row : Word) (x : Nat) (b : Bool) (hx : x < 32) (j : Nat) :
    (withBit row x b).getLsbD j = if j = x then b else row.getLsbD j := by
  have hbit : ∀ i, (BitVec.ofNat 32 (2 ^ x)).getLsbD i = decide (i = x) := by
    intro i
    rw [BitVec.getLsbD_ofNat, Nat.testBit_two_pow]
    by_cases h : i = x
    · subst h
      simp [hx]
    · simp [h, Ne.symm h]
  have hlt : j < 32 ∨ row.getLsbD j = false := by
    by_cases h32 : j < 32
    · exact .inl h32
    · exact .inr (BitVec.getLsbD_of_ge row j (by omega))
  cases b
  · simp only [withBit, Bool.false_eq_true, if_false, BitVec.getLsbD_and, BitVec.getLsbD_not, hbit]
    by_cases hj : j = x
    · simp [hj]
    · rcases hlt with h | h <;> simp [hj, h]
  · simp only [withBit, if_true, BitVec.getLsbD_or, hbit]
    by_cases hj : j = x <;> simp [hj]

/-- The bits of a row after one bit is written. -/
theorem obmBit_setBit (s : State) (cx cy : Nat) (b : Bool) (hx : cx < 32) (x y : Nat) :
    obmBit (setObmRow cy (withBit (obmRow s cy) cx b) s) x y = if x = cx ∧ y = cy then b else obmBit s x y := by
  simp only [obmBit, obmRow_setObmRow]
  by_cases hy : y = cy
  · subst hy
    simp [withBit_getLsbD _ _ _ hx]
  · simp [hy]

/-! ## The operations of the bitmap -/

theorem inField_iff (s : State) (cx cy : Nat) : inField s cx cy = true ↔ cx < s.geom.w ∧ cy < s.geom.h := by
  simp [inField]

/-- Everything `obmPut` can do: inside the field one row is stored, outside it the domain faults. -/
theorem obmPut_cases (b : Bool) (cx cy : Nat) (s : State) :
    (inField s cx cy = true ∧ obmPut b cx cy s = .ok (setObmRow cy (withBit (obmRow s cy) cx b) s)) ∨
    (inField s cx cy = false ∧ obmPut b cx cy s = .raised (raiseP fRange (rangeInfo cx cy) s)) := by
  cases h : inField s cx cy <;> simp [obmPut, h]

/-- Everything `obmGet` can do. -/
theorem obmGet_cases (cx cy : Nat) (rest : Bool → Result) (s : State) :
    (inField s cx cy = true ∧ obmGet cx cy rest s = rest (obmBit s cx cy)) ∨
    (inField s cx cy = false ∧ obmGet cx cy rest s = .raised (raiseP fRange (rangeInfo cx cy) s)) := by
  cases h : inField s cx cy <;> simp [obmGet, h]

/-- Clearing the rows of a list. -/
theorem foldl_clear_row (s : State) : ∀ (l : List Nat) (t : State),
    (∀ y, obmRow (l.foldl (fun t y => setObmRow y 0 t) t) y = if y ∈ l then 0 else obmRow t y) ∧
      (l.foldl (fun t y => setObmRow y 0 t) t) =
        { t with p.obm := (l.foldl (fun t y => setObmRow y 0 t) t).p.obm }
  | [], t => by simp
  | k :: l, t => by
    obtain ⟨h1, h2⟩ := foldl_clear_row s l (setObmRow k 0 t)
    refine ⟨fun y => ?_, ?_⟩
    · simp only [List.foldl_cons, h1, List.mem_cons, obmRow_setObmRow]
      by_cases hy : y ∈ l <;> by_cases hk : y = k <;> simp [hy, hk]
    · rw [List.foldl_cons, h2]
      rfl

/-- Everything `obmClearAll` does: the rows of the field are 0, nothing but the bitmap is written. -/
theorem obmClearAll_spec (s : State) :
    (∀ y, obmRow (obmClearAll s) y = if y < s.geom.h then 0 else obmRow s y) ∧
      obmClearAll s = { s with p.obm := (obmClearAll s).p.obm } := by
  have h := foldl_clear_row s (List.range s.geom.h) s
  refine ⟨fun y => ?_, h.2⟩
  have h1 := h.1 y
  simpa [obmClearAll] using h1

/-! ## The canonical form -/

/-- Memory is canonical when each of its stores is. -/
theorem memory_wf_iff (s : State) : Memory.wf s = true ↔
    Store.wf none s.p.part = true ∧ Store.wf none s.p.stg = true ∧ Store.wf none s.p.obm = true ∧
      Store.wf (some (0 : Word)) s.c.fb0 = true ∧ Store.wf (some (0 : Word)) s.c.fb1 = true ∧
      Store.wf none s.env.hostMem = true ∧ Store.wf none s.env.background = true := by
  simp only [Memory.wf, Bool.and_eq_true]
  tauto

theorem wf_setObmRow {s : State} (h : Memory.wf s = true) (y : Nat) (row : Word) :
    Memory.wf (setObmRow y row s) = true := by
  rw [memory_wf_iff] at h ⊢
  exact ⟨h.1, h.2.1, Store.wf_write _ _ h.2.2.1, h.2.2.2⟩

theorem wf_writePart {s : State} (h : Memory.wf s = true) (k : Nat) (q : Particle) :
    Memory.wf (writePart k q s) = true := by
  rw [memory_wf_iff] at h ⊢
  exact ⟨Store.wf_write _ _ h.1, h.2⟩

theorem wf_stgWrite {s : State} (h : Memory.wf s = true) (k : Nat) (e : Staged) :
    Memory.wf (stgWrite k e s) = true := by
  rw [memory_wf_iff] at h ⊢
  exact ⟨h.1, Store.wf_write _ _ h.2.1, h.2.2⟩

theorem wf_fbWrite {s : State} (h : Memory.wf s = true) (b : Bool) (k : Nat) (v : Word) :
    Memory.wf (fbWrite b k v s) = true := by
  rw [memory_wf_iff] at h ⊢
  cases b
  · exact ⟨h.1, h.2.1, h.2.2.1, Store.wf_write _ _ h.2.2.2.1, h.2.2.2.2⟩
  · exact ⟨h.1, h.2.1, h.2.2.1, h.2.2.2.1, Store.wf_write _ _ h.2.2.2.2.1, h.2.2.2.2.2⟩

theorem wf_setHostByte {s : State} (h : Memory.wf s = true) (a : Word) (v : Byte) :
    Memory.wf (setHostByte a v s) = true := by
  rw [memory_wf_iff] at h ⊢
  exact ⟨h.1, h.2.1, h.2.2.1, h.2.2.2.1, h.2.2.2.2.1, Store.wf_write _ _ h.2.2.2.2.2.1, h.2.2.2.2.2.2⟩

theorem wf_setBackground {s : State} (h : Memory.wf s = true) (x y : BitVec 5) (v : Word) :
    Memory.wf (setBackground x y v s) = true := by
  rw [memory_wf_iff] at h ⊢
  exact ⟨h.1, h.2.1, h.2.2.1, h.2.2.2.1, h.2.2.2.2.1, h.2.2.2.2.2.1, Store.wf_write _ _ h.2.2.2.2.2.2⟩

theorem wf_obmPut {s t : State} (h : Memory.wf s = true) {b : Bool} {cx cy : Nat} (e : obmPut b cx cy s = .ok t) :
    Memory.wf t = true := by
  rcases obmPut_cases b cx cy s with ⟨_, he⟩ | ⟨_, he⟩ <;> rw [he] at e
  · cases e
    exact wf_setObmRow h _ _
  · cases e

theorem wf_obmClearAll {s : State} (h : Memory.wf s = true) : Memory.wf (obmClearAll s) = true := by
  unfold obmClearAll
  generalize List.range s.geom.h = l
  induction l generalizing s with
  | nil => exact h
  | cons y l ih => exact ih (wf_setObmRow h y 0)

/-- The memories of the machine after reset are canonical. -/
theorem wf_reset : Memory.wf State.reset = true := by decide

end Sys2Proof.Machine
end

