-- ==== Sys2Proof/Laws/Ops.lean ====
section
/-! SUPPORT. For each shared operation of Machine/Ops.lean, one lemma that says everything it can do. -/

namespace Sys2Proof.Machine

open Sys2Proof.Config

/-! ## Sequencing and outcomes -/

@[simp] theorem Result.andThen_ok (s : State) (f : State → Result) : (Result.ok s).andThen f = f s := rfl
@[simp] theorem Result.andThen_pending (s : State) (f : State → Result) :
    (Result.pending s).andThen f = .pending s := rfl
@[simp] theorem Result.andThen_raised (s : State) (f : State → Result) : (Result.raised s).andThen f = .raised s := rfl
@[simp] theorem Result.andThen_stop (e : Fault) (f : State → Result) : (Result.stop e).andThen f = .stop e := rfl

@[simp] theorem Result.outcome_ok (s : State) (d : State → State) : (Result.ok s).outcome d = .next (d s) := rfl
@[simp] theorem Result.outcome_pending (s : State) (d : State → State) : (Result.pending s).outcome d = .next s := rfl
@[simp] theorem Result.outcome_raised (s : State) (d : State → State) : (Result.raised s).outcome d = .next s := rfl
@[simp] theorem Result.outcome_stop (e : Fault) (d : State → State) : (Result.stop e).outcome d = .fault e := rfl

/-- A sequence goes to its end only through the end of its first part. -/
theorem Result.andThen_eq_ok {r : Result} {f : State → Result} {t : State} (h : r.andThen f = .ok t) :
    ∃ u, r = .ok u ∧ f u = .ok t := by
  cases r with
  | ok u => exact ⟨u, rfl, h⟩
  | pending u => cases h
  | raised u => cases h
  | stop e => cases h

/-- An outcome that is a next state comes from an end, a wait or a fatal fault. -/
theorem Result.outcome_eq_next {r : Result} {d : State → State} {t : State} (h : r.outcome d = .next t) :
    (∃ u, r = .ok u ∧ t = d u) ∨ r = .pending t ∨ r = .raised t := by
  cases r with
  | ok u => exact .inl ⟨u, rfl, by simpa using h.symm⟩
  | pending u => exact .inr (.inl (by simpa using h))
  | raised u => exact .inr (.inr (by simpa using h))
  | stop e => cases h

@[simp] theorem runEach_nil (op : Nat → State → Result) (s : State) : runEach op [] s = .ok s := rfl
@[simp] theorem runEach_cons (op : Nat → State → Result) (k : Nat) (ks : List Nat) (s : State) :
    runEach op (k :: ks) s = (op k s).andThen (runEach op ks) := rfl

theorem runEach_append (op : Nat → State → Result) :
    ∀ (l m : List Nat) (s : State), runEach op (l ++ m) s = (runEach op l s).andThen (runEach op m)
  | [], m, s => rfl
  | k :: l, m, s => by
    simp only [List.cons_append, runEach_cons]
    cases h : op k s <;> simp [runEach_append op l m]

/-- A property that each operation keeps, in whatever it comes to, is kept by the whole list. -/
theorem runEach_keeps {op : Nat → State → Result} {P : State → Prop}
    (hok : ∀ k s t, P s → op k s = .ok t → P t) (hpend : ∀ k s t, P s → op k s = .pending t → P t)
    (hraise : ∀ k s t, P s → op k s = .raised t → P t) :
    ∀ (l : List Nat) (s : State), P s →
      (∀ t, runEach op l s = .ok t → P t) ∧ (∀ t, runEach op l s = .pending t → P t) ∧
        (∀ t, runEach op l s = .raised t → P t)
  | [], s, hs => by
    refine ⟨fun t h => ?_, fun t h => ?_, fun t h => ?_⟩
    · cases h
      exact hs
    · cases h
    · cases h
  | k :: l, s, hs => by
    cases e : op k s with
    | ok u => simpa [e] using runEach_keeps hok hpend hraise l u (hok k s u hs e)
    | pending u =>
      refine ⟨fun t h => ?_, fun t h => ?_, fun t h => ?_⟩ <;> simp [e] at h
      exact h ▸ hpend k s u hs e
    | raised u =>
      refine ⟨fun t h => ?_, fun t h => ?_, fun t h => ?_⟩ <;> simp [e] at h
      exact h ▸ hraise k s u hs e
    | stop f => refine ⟨fun t h => ?_, fun t h => ?_, fun t h => ?_⟩ <;> simp [e] at h

/-! ## The frames of agent `P` and agent `C` -/

/-- Everything a host command can do. -/
theorem command_cases (opc : BitVec 8) (body : State → Result) (s : State) :
    (s.p.halt = true ∧ command opc body s = .next s) ∨
    (s.p.halt = false ∧ s.p.busy = true ∧ command opc body s = .next (raiseP fOverrun (opc.zeroExtend 24) s)) ∨
    (Idle s ∧ command opc body s = (body (accept opc s)).outcome complete) := by
  unfold command Idle
  cases h : s.p.halt <;> cases b : s.p.busy <;> simp

/-- An accepted command is its pseudocode between acceptance and completion. -/
theorem command_idle (opc : BitVec 8) (body : State → Result) {s : State} (h : Idle s) :
    command opc body s = (body (accept opc s)).outcome complete := by
  simp [command, h.1, h.2]

/-- Acceptance and completion, with nothing between them. -/
theorem complete_accept (opc : BitVec 8) (s : State) : complete (accept opc s) = ranCommand opc s := rfl

/-- Acceptance and a fatal fault, with nothing between them. -/
theorem raiseP_accept (opc code : BitVec 8) (info : BitVec 24) (s : State) :
    raiseP code info (accept opc s) = faultedCommand opc code info s := rfl

theorem raiseC_eq (code : BitVec 8) (info : BitVec 24) (s : State) :
    raiseC code info s = faultedConsumer code info s := rfl

/-- Everything a micro-operation of agent `P` can do. -/
theorem producerStep_cases (f : State → Host.Outcome State Fault Refusal) (s : State) :
    (s.p.halt = true ∧ producerStep f s = .next s) ∨ (s.p.halt = false ∧ producerStep f s = f s) := by
  unfold producerStep
  cases h : s.p.halt <;> simp

/-- Everything a micro-operation of agent `C` can do. -/
theorem consumerStep_cases (f : State → Host.Outcome State Fault Refusal) (s : State) :
    (s.c.halt = true ∧ consumerStep f s = .next s) ∨ (s.c.halt = false ∧ consumerStep f s = f s) := by
  unfold consumerStep
  cases h : s.c.halt <;> simp

/-- Everything the gate can do. -/
theorem gated_cases (opc : BitVec 8) (body : State → Result) (s : State) :
    (s.p.inflight = true ∧ gated opc body s = .raised (raiseP fGate (opc.zeroExtend 24) s)) ∨
    (s.p.inflight = false ∧ gated opc body s = body s) := by
  unfold gated
  cases h : s.p.inflight <;> simp

/-- A write of an illegal word, in its three cases. -/
theorem illegalCommand_cases (w : Word) (s : State) :
    (s.p.halt = true ∧ illegalCommand w s = s) ∨
    (s.p.halt = false ∧ s.p.busy = true ∧ illegalCommand w s = raiseP fOverrun (info24 w) s) ∨
    (Idle s ∧ illegalCommand w s = raiseP fBadcmd (info24 w) s) := by
  unfold illegalCommand Idle
  cases h : s.p.halt <;> cases b : s.p.busy <;> simp

/-! ## The free inputs -/

/-- A draw is in its range. -/
theorem draw_le (hi : Nat) (s : State) : (draw hi s).1 ≤ hi := Nat.lt_succ_iff.mp (Nat.mod_lt _ (Nat.succ_pos hi))

/-- A listed answer in range is the value drawn, and is consumed. -/
theorem draw_listed {hi n : Nat} {rest : List Nat} {s : State} (h : s.env.oracle = n :: rest) (hn : n ≤ hi) :
    draw hi s = (n, { s with env.oracle := rest }) := by
  simp [draw, popNat, h, Nat.mod_eq_of_lt (Nat.lt_succ_of_le hn)]

/-- What a free input leaves: the environment's list and counter at most change. -/
theorem popNat_state (s : State) :
    (popNat s).2 = { s with env.oracle := (popNat s).2.env.oracle, env.fresh := (popNat s).2.env.fresh } := by
  unfold popNat
  split <;> rfl

/-! ## The channels -/

theorem decodeToken_ready (w : Word) :
    decodeToken true w = if w = tokReadyWord then .ok .tokReady else .error (.notToken w) := rfl

theorem decodeToken_consumed (w : Word) :
    decodeToken false w = if w = tokConsumedWord then .ok .tokConsumed else .error (.notToken w) := rfl

/-- Everything the producer's receive can do. -/
theorem takeConsumed_cases (w : Word) (s : State) :
    (w = tokConsumedWord ∧ takeConsumed w s =
      .ok { s with p.c2pAck := !s.p.c2pAck, p.inflight := false, p.lastTimeout := false }) ∨
    (w ≠ tokConsumedWord ∧ takeConsumed w s =
      .raised (raiseP fBadtoken (info24 w) { s with p.c2pAck := !s.p.c2pAck })) := by
  by_cases h : w = tokConsumedWord <;> simp [takeConsumed, decodeToken_consumed, h]

/-- Everything the consumer's receive can do. -/
theorem takeReady_cases (w : Word) (s : State) :
    (w = tokReadyWord ∧ takeReady w s = .ok { s with c.p2cAck := !s.c.p2cAck }) ∨
    (w ≠ tokReadyWord ∧ takeReady w s =
      .raised (raiseC fBadtoken (info24 w) { s with c.p2cAck := !s.c.p2cAck })) := by
  by_cases h : w = tokReadyWord <;> simp [takeReady, decodeToken_ready, h]

/-- Everything `FSH.SENDCONS` can do. -/
theorem sendConsumed_cases (s : State) :
    (c2pFullSeen s = true ∧ sendConsumed s = .raised (raiseC fDesync (info24 s.c.frameCount) s)) ∨
    (c2pFullSeen s = false ∧
      sendConsumed s = .ok { s with c.c2pData := tokConsumedWord, c.c2pReq := !s.c.c2pReq }) := by
  cases h : c2pFullSeen s <;> simp [sendConsumed, h]

/-- Everything the check of the table size can do. -/
theorem withParticles_cases (s : State) (rest : State → Result) :
    (capacity < s.p.count.toNat ∧ withParticles s rest = .stop (.particleIndex capacity)) ∨
    (s.p.count.toNat ≤ capacity ∧ withParticles s rest = rest s) := by
  by_cases h : capacity < s.p.count.toNat
  · exact .inl ⟨h, by simp [withParticles, h]⟩
  · exact .inr ⟨by omega, by simp [withParticles, h]⟩

end Sys2Proof.Machine
end

