-- ==== Sys2Proof/Laws/PerInstr.lean ====
section
/-! SUPPORT. Statements about every operation as syntax, one lemma per constructor: an operation with a code of its own
decodes from its own encoding, and every operation that is encoded decodes to one with a code of its own. -/

namespace Sys2Proof.Laws.DecodeEncode

/-- The operation's code decodes to an operation with that code, and to itself if the code is its own
(30_encoding.md R90). -/
def Statement (i : Instr) : Prop :=
  ∃ j, decode (encode i) = .ok j ∧ j.wf = true ∧ encode j = encode i ∧ (i.wf = true → j = i)

theorem nop : Statement .nop := ⟨.nop, by decide, by decide, by decide, by decide⟩
theorem obmSet : Statement .obmSet := ⟨.obmSet, by decide, by decide, by decide, by decide⟩
theorem obmClr : Statement .obmClr := ⟨.obmClr, by decide, by decide, by decide, by decide⟩
theorem obmGet : Statement .obmGet := ⟨.obmGet, by decide, by decide, by decide, by decide⟩
theorem obmClrall : Statement .obmClrall := ⟨.obmClrall, by decide, by decide, by decide, by decide⟩
theorem ppeLdbg : Statement .ppeLdbg := ⟨.ppeLdbg, by decide, by decide, by decide, by decide⟩
theorem ppeLdpart : Statement .ppeLdpart := ⟨.ppeLdpart, by decide, by decide, by decide, by decide⟩
theorem ppeClrall : Statement .ppeClrall := ⟨.ppeClrall, by decide, by decide, by decide, by decide⟩
theorem ppeIter : Statement .ppeIter := ⟨.ppeIter, by decide, by decide, by decide, by decide⟩
theorem ppeSnap : Statement .ppeSnap := ⟨.ppeSnap, by decide, by decide, by decide, by decide⟩
theorem ppeTick : Statement .ppeTick := ⟨.ppeTick, by decide, by decide, by decide, by decide⟩
theorem fshSendrdy : Statement .fshSendrdy := ⟨.fshSendrdy, by decide, by decide, by decide, by decide⟩
theorem fshWaitcons : Statement .fshWaitcons := ⟨.fshWaitcons, by decide, by decide, by decide, by decide⟩
theorem cOff : Statement .cOff := ⟨.cOff, by decide, by decide, by decide, by decide⟩
theorem cSetbit : Statement .cSetbit := ⟨.cSetbit, by decide, by decide, by decide, by decide⟩
theorem cDmastart : Statement .cDmastart := ⟨.cDmastart, by decide, by decide, by decide, by decide⟩
theorem cPoll : Statement .cPoll := ⟨.cPoll, by decide, by decide, by decide, by decide⟩
theorem cWaitdma : Statement .cWaitdma := ⟨.cWaitdma, by decide, by decide, by decide, by decide⟩
theorem cDummy2 : Statement .cDummy2 := ⟨.cDummy2, by decide, by decide, by decide, by decide⟩
theorem cRedraw : Statement .cRedraw := ⟨.cRedraw, by decide, by decide, by decide, by decide⟩
theorem cWaitstrobe : Statement .cWaitstrobe := ⟨.cWaitstrobe, by decide, by decide, by decide, by decide⟩
theorem cStrobe : Statement .cStrobe := ⟨.cStrobe, by decide, by decide, by decide, by decide⟩
theorem cNext : Statement .cNext := ⟨.cNext, by decide, by decide, by decide, by decide⟩
theorem cFlip : Statement .cFlip := ⟨.cFlip, by decide, by decide, by decide, by decide⟩
theorem cHalted : Statement .cHalted := ⟨.cHalted, by decide, by decide, by decide, by decide⟩
theorem pIdle : Statement .pIdle := ⟨.pIdle, by decide, by decide, by decide, by decide⟩
theorem pScale : Statement .pScale := ⟨.pScale, by decide, by decide, by decide, by decide⟩
theorem pSort : Statement .pSort := ⟨.pSort, by decide, by decide, by decide, by decide⟩
theorem pAccel : Statement .pAccel := ⟨.pAccel, by decide, by decide, by decide, by decide⟩
theorem pMove : Statement .pMove := ⟨.pMove, by decide, by decide, by decide, by decide⟩
theorem pExec : Statement .pExec := ⟨.pExec, by decide, by decide, by decide, by decide⟩
theorem pWait : Statement .pWait := ⟨.pWait, by decide, by decide, by decide, by decide⟩
theorem pHalted : Statement .pHalted := ⟨.pHalted, by decide, by decide, by decide, by decide⟩
theorem sliceIdle : Statement .sliceIdle := ⟨.sliceIdle, by decide, by decide, by decide, by decide⟩
theorem sliceClear : Statement .sliceClear := ⟨.sliceClear, by decide, by decide, by decide, by decide⟩
theorem sliceParticles : Statement .sliceParticles := ⟨.sliceParticles, by decide, by decide, by decide, by decide⟩
theorem fshPollrdy : Statement .fshPollrdy := ⟨.cPoll, by decide, by decide, by decide, by decide⟩
theorem fshSendcons : Statement .fshSendcons := ⟨.cFlip, by decide, by decide, by decide, by decide⟩
theorem bpdSlice : Statement .bpdSlice := ⟨.cRedraw, by decide, by decide, by decide, by decide⟩
theorem tokReady : Statement .tokReady := ⟨.tokReady, by decide, by decide, by decide, by decide⟩
theorem tokConsumed : Statement .tokConsumed := ⟨.tokConsumed, by decide, by decide, by decide, by decide⟩

end Sys2Proof.Laws.DecodeEncode
end

