-- ==== Sys2Proof/Machine/Script.lean ====
section
/-! DEFINITION. Command scripts: statements, pseudo-instructions and disassembly (30_encoding.md R100 to R102). -/

namespace Sys2Proof.Machine

open Sys2Proof.Config

/-- The registers of the two ports, by name (10_state.md R23, R40). -/
inductive Reg where
  | pCmd | pArg0 | pArg1 | pArg2 | pResult | pStatus | pCfg | pGeom | pCount | pTimeout | pFault | pPartidx
  | pPartpos | pPartvel | pPartcol | pDropcnt
  | cCtrl | cStatus | cCfg | cOeunit | cFramecnt | cFault | cCursor
  deriving DecidableEq, Repr

/-- The port a register is on (`true`: the P port) and its byte offset (R23, R40). -/
def regPlace (r : Reg) : Bool × Word :=
  match r with
  | .pCmd => (true, 0x00)
  | .pArg0 => (true, 0x04)
  | .pArg1 => (true, 0x08)
  | .pArg2 => (true, 0x0C)
  | .pResult => (true, 0x10)
  | .pStatus => (true, 0x14)
  | .pCfg => (true, 0x18)
  | .pGeom => (true, 0x1C)
  | .pCount => (true, 0x20)
  | .pTimeout => (true, 0x24)
  | .pFault => (true, 0x28)
  | .pPartidx => (true, 0x2C)
  | .pPartpos => (true, 0x30)
  | .pPartvel => (true, 0x34)
  | .pPartcol => (true, 0x38)
  | .pDropcnt => (true, 0x3C)
  | .cCtrl => (false, 0x00)
  | .cStatus => (false, 0x04)
  | .cCfg => (false, 0x08)
  | .cOeunit => (false, 0x0C)
  | .cFramecnt => (false, 0x10)
  | .cFault => (false, 0x14)
  | .cCursor => (false, 0x18)

/-- `WR reg, value` (R100). -/
def writeReg (r : Reg) (value : Word) : Action :=
  if (regPlace r).1 then .hostP (.write .word (regPlace r).2 value) else .hostC (.write .word (regPlace r).2 value)

/-- `RD reg` (R100). -/
def readReg (r : Reg) : Action :=
  if (regPlace r).1 then .hostP (.read .word (regPlace r).2) else .hostC (.read .word (regPlace r).2)

/-- One statement of a script (R100). A command carries as many operands as its row of R94 lists. -/
inductive Stmt where
  | cmd (i : Instr) (operands : List Word)
  | wr (r : Reg) (value : Word)
  | rd (r : Reg)
  deriving DecidableEq, Repr

/-- The operand writes, from `P_ARG0` on; an omitted operand leaves its register as it was (R100). -/
def operandWrites (operands : List Word) : List Action :=
  ([Reg.pArg0, Reg.pArg1, Reg.pArg2].zip operands).map (fun e => writeReg e.1 e.2)

/-- The command word of an operation of format H (R94). -/
def commandWord (i : Instr) : Option Word :=
  match encode i with
  | .command w => some w
  | _ => none

/-- The host acts of a statement: for a command the operand writes, the `P_CMD` write and one poll of `P_STATUS`
(R100); how often the host polls again is the host's (log 26). -/
def stmtActions (t : Stmt) : List Action :=
  match t with
  | .cmd i operands =>
    match commandWord i with
    | some w => operandWrites operands ++ [writeReg .pCmd w, readReg .pStatus]
    | none => []
  | .wr r value => [writeReg r value]
  | .rd r => [readReg r]

/-- The pseudo-instructions (R101). -/
inductive Pseudo where
  | ppeStage (bg tbl n : Word)
  | cfgPpe (scale elast sort : Word)
  | cfgBpd (depth minbit chunk : Word)
  | bpdStart
  | ackWarn
  deriving DecidableEq, Repr

/-- The expansions (R101). -/
def expand (t : Pseudo) : List Stmt :=
  match t with
  | .ppeStage bg tbl n => [.cmd .ppeClrall [], .cmd .ppeLdbg [bg], .cmd .ppeLdpart [tbl, n]]
  | .cfgPpe scale elast sort => [.wr .pCfg (scale ||| (elast <<< 8) ||| (sort <<< 16))]
  | .cfgBpd depth minbit chunk => [.wr .cCfg (depth ||| (minbit <<< 4) ||| ((chunk - 1) <<< 16))]
  | .bpdStart => [.wr .cCtrl 1]
  | .ackWarn => [.wr .pStatus 8]

/-! ## Disassembly (R102) -/

/-- How many operands a host command lists (R94). -/
def operandCount (i : Instr) : Nat :=
  match i with
  | .obmSet | .obmClr | .obmGet | .ppeLdpart => 2
  | .ppeLdbg => 1
  | .ppeIter | .ppeTick => 3
  | _ => 0

/-- The mnemonic of a host command (R94). -/
def commandMnemonic (i : Instr) : String :=
  match i with
  | .obmSet => "OBM.SET"
  | .obmClr => "OBM.CLR"
  | .obmGet => "OBM.GET"
  | .obmClrall => "OBM.CLRALL"
  | .ppeLdbg => "PPE.LDBG"
  | .ppeLdpart => "PPE.LDPART"
  | .ppeClrall => "PPE.CLRALL"
  | .ppeIter => "PPE.ITER"
  | .ppeSnap => "PPE.SNAP"
  | .ppeTick => "PPE.TICK"
  | .fshSendrdy => "FSH.SENDRDY"
  | .fshWaitcons => "FSH.WAITCONS"
  | _ => "NOP"

/-- One hexadecimal digit. -/
def hexDigit (n : Nat) : Char := "0123456789ABCDEF".toList.getD n '0'

/-- The low `k` hexadecimal digits of a number, the highest first. -/
def hexDigits (n : Nat) : Nat → List Char
  | 0 => []
  | k + 1 => hexDigits (n / 16) k ++ [hexDigit (n % 16)]

/-- A word in hexadecimal, eight digits. -/
def hexWord (w : Word) : String := "0x" ++ String.ofList (hexDigits w.toNat 8)

/-- The printed form of a command word with the sampled operands; an illegal word prints as `.word` (R102). -/
def disassemble (word x0 x1 x2 : Word) : String :=
  match decode (.command word) with
  | .ok i =>
    if operandCount i = 0 then commandMnemonic i
    else commandMnemonic i ++ " " ++ String.intercalate ", " (([x0, x1, x2].take (operandCount i)).map hexWord)
  | .error _ => ".word " ++ hexWord word

end Sys2Proof.Machine
end

