-- ==== Sys2Proof/Tests/Slice0.lean ====
section
/-! SUPPORT. The model's own tests: the checks of WellFormed refuse ill-formed terms, every code decodes, one or two
small steps per operation with the results of spec/95_test_vectors.md (V<n>), and a witness for the hypotheses of each
statement of Certificates/Slice0/Obligations.lean. -/

namespace Sys2Proof.Tests

open Sys2Proof Sys2Proof.Machine Sys2Proof.Config

/-! ## WellFormed -/

theorem test_wf_refuses_pollrdy : Instr.wf .fshPollrdy = false := by decide
theorem test_wf_refuses_sendcons : Instr.wf .fshSendcons = false := by decide
theorem test_wf_refuses_bpdSlice : Instr.wf .bpdSlice = false := by decide
theorem test_wf_accepts_iter : Instr.wf .ppeIter = true := by decide
theorem test_geometry_refuses_zero_width : Geometry.wf ⟨0, 4, 4⟩ = false := by decide
theorem test_geometry_refuses_wide : Geometry.wf ⟨33, 4, 4⟩ = false := by decide
theorem test_geometry_refuses_zero_height : Geometry.wf ⟨4, 0, 4⟩ = false := by decide
theorem test_geometry_refuses_high : Geometry.wf ⟨4, 33, 4⟩ = false := by decide
theorem test_geometry_refuses_zero_size : Geometry.wf ⟨4, 4, 0⟩ = false := by decide
theorem test_geometry_refuses_big_size : Geometry.wf ⟨4, 4, 34⟩ = false := by decide
theorem test_geometry_refuses_odd_size : Geometry.wf ⟨4, 4, 5⟩ = false := by decide
theorem test_geometry_accepts_bounds : Geometry.wf ⟨32, 1, 2⟩ = true := by decide

/-! ## Decode: the words of 30_encoding.md R94, R95, R96, R103, R104, bit by bit -/

theorem test_decode_commands :
    decode (.command 0b00000000#32) = .ok .nop ∧ decode (.command 0b00000001#32) = .ok .obmSet ∧
    decode (.command 0b00000010#32) = .ok .obmClr ∧ decode (.command 0b00000011#32) = .ok .obmGet ∧
    decode (.command 0b00000100#32) = .ok .obmClrall ∧ decode (.command 0b00010000#32) = .ok .ppeLdbg ∧
    decode (.command 0b00010001#32) = .ok .ppeLdpart ∧ decode (.command 0b00010010#32) = .ok .ppeClrall ∧
    decode (.command 0b00010011#32) = .ok .ppeIter ∧ decode (.command 0b00010100#32) = .ok .ppeSnap ∧
    decode (.command 0b00010101#32) = .ok .ppeTick ∧ decode (.command 0b00100000#32) = .ok .fshSendrdy ∧
    decode (.command 0b00100001#32) = .ok .fshWaitcons := by decide

theorem test_decode_producer_phases :
    decode (.pphase 0b000#3) = .ok .pIdle ∧ decode (.pphase 0b001#3) = .ok .pScale ∧
    decode (.pphase 0b010#3) = .ok .pSort ∧ decode (.pphase 0b011#3) = .ok .pAccel ∧
    decode (.pphase 0b100#3) = .ok .pMove ∧ decode (.pphase 0b101#3) = .ok .pExec ∧
    decode (.pphase 0b110#3) = .ok .pWait ∧ decode (.pphase 0b111#3) = .ok .pHalted := by decide

theorem test_decode_consumer_phases :
    decode (.cphase 0b0000#4) = .ok .cOff ∧ decode (.cphase 0b0001#4) = .ok .cSetbit ∧
    decode (.cphase 0b0010#4) = .ok .cDmastart ∧ decode (.cphase 0b0011#4) = .ok .cPoll ∧
    decode (.cphase 0b0100#4) = .ok .cWaitdma ∧ decode (.cphase 0b0101#4) = .ok .cDummy2 ∧
    decode (.cphase 0b0110#4) = .ok .cRedraw ∧ decode (.cphase 0b0111#4) = .ok .cWaitstrobe ∧
    decode (.cphase 0b1000#4) = .ok .cStrobe ∧ decode (.cphase 0b1001#4) = .ok .cNext ∧
    decode (.cphase 0b1010#4) = .ok .cFlip ∧ decode (.cphase 0b1011#4) = .ok .cHalted ∧
    decode (.cphase 0b1100#4) = .ok .cHalted ∧ decode (.cphase 0b1111#4) = .ok .cHalted := by decide

theorem test_decode_slices :
    decode (.rstate 0b00#2) = .ok .sliceIdle ∧ decode (.rstate 0b01#2) = .ok .sliceClear ∧
    decode (.rstate 0b10#2) = .ok .sliceParticles ∧ decode (.rstate 0b11#2) = .error .sliceCode3 := by decide

theorem test_decode_tokens :
    decode (.p2c 0x0000_0001) = .ok .tokReady ∧ decode (.c2p 0x0000_0002) = .ok .tokConsumed ∧
    decode (.p2c 0x0000_0002) = .error (.notToken 2) ∧ decode (.c2p 0x0000_0001) = .error (.notToken 1) := by decide

/-- V3. -/
theorem test_decode_illegal_words :
    decode (.command 0x0000_0005) = .error (.unlistedOpcode 0x0000_0005) ∧
    decode (.command 0x0000_00FF) = .error (.unlistedOpcode 0x0000_00FF) ∧
    decode (.command 0x0000_0113) = .error (.reservedBits 0x0000_0113) ∧
    decode (.command 0xFF00_0013) = .error (.reservedBits 0xFF00_0013) := by decide

/-! ## States and readings -/

/-- What a next state holds. -/
def got {α : Type} (o : Host.Outcome State Fault Refusal) (f : State → α) : Option α :=
  match o with
  | .next s => some (f s)
  | .fault _ => none
  | .refused _ => none

/-- The state after reset of a block of `w` by `h` cells and `size` pixels. -/
def board (w h size : Nat) : State := State.resetWith ⟨w, h, size⟩

/-- A field with a bitmap and a particle table, all of it active. -/
def field (w h : Nat) (rows : List Word) (parts : List Particle) : State :=
  { board w h 4 with
    p.obm := (List.range rows.length).zip rows, p.part := (List.range parts.length).zip parts
    p.count := BitVec.ofNat 10 parts.length }

/-- A particle from integers. -/
def part (x y : Nat) (vx vy : Int) (color : Word) : Particle :=
  ⟨BitVec.ofNat 16 x, BitVec.ofNat 16 y, BitVec.ofInt 16 vx, BitVec.ofInt 16 vy, color⟩

/-- A state with operands. -/
def withArgs (s : State) (a0 a1 a2 : Word) : State := { s with p.arg0 := a0, p.arg1 := a1, p.arg2 := a2 }

/-- A state about to move particle 0 with configuration word `cfg`. -/
def moving (s : State) (cfg : Word) : State := { s with p.cfg := cfg, p.pphase := 4, p.opc := 0x13, p.busy := true }

/-- The little-endian bytes of a list of words from an address on (20_memory.md R67). -/
def bytesFrom (addr : Nat) : List Word → List Host.Cell
  | [] => []
  | w :: ws =>
    [(addr, w.extractLsb' 0 8), (addr + 1, w.extractLsb' 8 8), (addr + 2, w.extractLsb' 16 8),
      (addr + 3, w.extractLsb' 24 8)] ++ bytesFrom (addr + 4) ws

/-- A state whose host memory is known to hold words from an address on. -/
def withMemory (s : State) (addr : Nat) (ws : List Word) : State := { s with env.hostMem := bytesFrom addr ws }

/-! ## Host commands -/

/-- V18. -/
theorem test_nop_completes : got (exec .nop (board 4 4 4)) (fun t => (pStatus t, t.p.result)) = some (0, 0) := by decide

/-- V10. -/
theorem test_set : got (exec .obmSet (withArgs (field 4 4 [0, 2, 0, 0] []) 2 1 0)) (fun t => t.p.obm)
    = some [(0, 0), (1, 6), (2, 0), (3, 0)] := by decide
/-- V70. -/
theorem test_set_out_of_range : got (exec .obmSet (withArgs (field 4 4 [0, 2, 0, 0] []) 4 0 0))
    (fun t => (t.p.fault, pStatus t)) = some (0x0000_0404, 0x0000_0702) := by decide
/-- V10. -/
theorem test_clr : got (exec .obmClr (withArgs (field 4 4 [0, 6, 0, 0] []) 1 1 0)) (fun t => t.p.obm)
    = some [(0, 0), (1, 4), (2, 0), (3, 0)] := by decide
/-- V10. -/
theorem test_get : got (exec .obmGet (withArgs (field 4 4 [0, 6, 0, 0] []) 2 1 0)) (fun t => t.p.result) = some 1 := by
  decide
/-- V70: the coordinate is compared whole and recorded truncated. -/
theorem test_get_truncates_info : got (exec .obmGet (withArgs (field 4 4 [0, 6, 0, 0] []) 0x1000 0 0))
    (fun t => (t.p.fault, t.p.result)) = some (0x0000_0004, 0) := by decide
/-- V10. -/
theorem test_clrall : got (exec .obmClrall (field 2 2 [3, 1] [])) (fun t => t.p.obm) = some [(0, 0), (1, 0)] := by decide
/-- V16. -/
theorem test_ldbg : got (exec .ppeLdbg (withArgs (withMemory (field 2 2 [0, 0] []) 0x1000 [0, 0, 0, 0x0040_4040]) 0x1000 0 0))
    (fun t => t.p.obm) = some [(0, 0), (1, 2)] := by decide
/-- V70. -/
theorem test_ldbg_misaligned : got (exec .ppeLdbg (withArgs (board 4 4 4) 0x1002 0 0)) (fun t => t.p.fault)
    = some 0x0010_0208 := by decide
/-- V17, the wrap of addresses at the top. -/
theorem test_ldpart_wraps :
    got (exec .ppeLdpart (withArgs { field 4 4 [0, 0, 0, 0xC] [] with
        env.hostMem := bytesFrom 0 [1, 0xFF] ++ bytesFrom 0xFFFF_FFFC [3] } 0xFFFF_FFFC 1 0))
      (fun t => (readPart t 0, t.p.count, t.p.obm))
    = some (part 896 384 0 0 0xFF, 1, [(0, 0), (1, 8), (2, 0), (3, 0xC)]) := by decide
/-- V17: the first triple is written, the second is out of range. -/
theorem test_ldpart_bad_triple :
    got (exec .ppeLdpart (withArgs (withMemory (field 4 4 [0, 0, 0, 0] []) 0x2000 [0, 0, 1, 4, 0, 2]) 0x2000 2 0))
      (fun t => (readPart t 0, t.p.count, t.p.obm, t.p.fault))
    = some (part 128 128 0 0 1, 0, [(0, 1), (1, 0), (2, 0), (3, 0)], 0x0000_0404) := by decide
/-- V18. -/
theorem test_ppe_clrall : got (exec .ppeClrall (field 2 2 [3, 1] [part 1 1 0 0 7])) (fun t => (t.p.obm, t.p.count))
    = some ([(0, 0), (1, 0)], 1) := by decide
/-- V20: the source's scenario, first row. -/
theorem test_iter_scenario :
    got (exec .ppeIter (withArgs { field 2 1 [1] [part 128 128 0 0 0xFF] with env.oracle := [0, 5] } 128 0 0))
      (fun t => (readPart t 0, t.p.obm)) = some (part 155 128 27 0 0xFF, [(0, 1)]) := by decide +kernel
/-- V31: with the sort, nobody bounces. -/
theorem test_iter_sorted :
    got (exec .ppeIter (withArgs
        { field 8 1 [7] [part 128 128 0 0 1, part 384 128 0 0 2, part 640 128 0 0 3] with
          p.cfg := 0x0001_8040, env.oracle := [5, 5, 5, 5, 5, 5] } 512 0 0))
      (fun t => (activeParts t, t.p.obm))
    = some ([part 768 128 128 0 3, part 512 128 128 0 2, part 256 128 128 0 1], [(0, 0xE)]) := by decide +kernel
/-- V33. -/
theorem test_snap : got (exec .ppeSnap (field 4 4 [] [part 448 192 64 64 0xFF00, part 192 192 64 64 0xFF]))
    (fun t => (t.p.stg, t.p.stgCount)) = some ([(0, ⟨448, 192, 0xFF00⟩), (1, ⟨192, 192, 0xFF⟩)], 2) := by decide
/-- P3, tick 1. -/
theorem test_tick :
    got (exec .ppeTick (withArgs { field 2 2 [1, 2] [part 128 128 0 0 0xC0] with env.oracle := [0, 5] } 128 0 0))
      (fun t => (readPart t 0, t.p.stg, t.p.p2cData, t.p.p2cReq, pStatus t))
    = some (part 155 128 27 0 0xC0, [(0, ⟨155, 128, 0xC0⟩)], 1, true, 4) := by decide +kernel
/-- V5: a tick in its wait. -/
theorem test_tick_waits : got (exec .ppeTick { board 4 4 4 with p.inflight := true }) pStatus = some 0x0000_0605 := by
  decide
/-- V40. -/
theorem test_sendrdy : got (exec .fshSendrdy (board 4 4 4)) (fun t => (t.p.p2cData, t.p.p2cReq, pStatus t))
    = some (1, true, 4) := by decide
/-- V45. -/
theorem test_sendrdy_gate : got (exec .fshSendrdy { board 4 4 4 with p.inflight := true })
    (fun t => (t.p.fault, pStatus t)) = some (0x0000_2007, 0x0000_0706) := by decide
/-- V42. -/
theorem test_waitcons_nothing : got (exec .fshWaitcons { board 4 4 4 with p.lastTimeout := true }) pStatus = some 0 := by
  decide
/-- V70: a word that is no token. -/
theorem test_waitcons_bad_token :
    got (exec .fshWaitcons { board 4 4 4 with p.inflight := true, c.c2pData := 7, p.c2pReqS2 := true })
      (fun t => (t.p.fault, t.p.c2pAck, t.p.inflight)) = some (0x0000_0709, true, true) := by decide

/-! ## Producer micro-operations -/

theorem test_idle_rests : got (exec .pIdle (board 4 4 4)) pStatus = some 0 := by decide
/-- V14. -/
theorem test_scale : got (exec .pScale { board 4 4 4 with p.x0 := 0xFFFF_FF80, p.x1 := 3, p.x2 := 64, p.pphase := 1 })
    (fun t => (t.p.work.ax2, t.p.work.ay2, t.p.work.az2, t.p.work.jmax, t.p.pphase)) = some (-35, -3, 3, 6, 2) := by decide
/-- V32: equal keys keep their order. -/
theorem test_sort_stable :
    got (exec .pSort { field 4 4 [] [part 384 128 0 0 0xA, part 384 640 0 0 0xB, part 128 896 0 0 0xC, part 896 384 0 0 0xD]
        with p.cfg := 0x0001_8040, p.work.ax2 := 123, p.work.ay2 := -5 })
      (fun t => (activeParts t).map (fun q => q.color)) = some [0xD, 0xA, 0xB, 0xC] := by decide +kernel
/-- V15: the bracket of `tan 22.5` degrees. -/
theorem test_sort_direction : sortDirection 12 5 = (1, 1) ∧ sortDirection 29 12 = (1, 0) ∧ sortDirection 70 29 = (1, 1) ∧
    sortDirection (-10) 5 = (-1, 1) ∧ sortDirection 0 (-7) = (0, -1) := by decide +kernel
/-- V13. -/
theorem test_speed_clamp : clampSpeed 300 400 = (153, 204) ∧ clampSpeed 256 1 = (255, 0) ∧
    clampSpeed (-33033) 33033 = (-181, 181) ∧ clampSpeed 181 181 = (181, 181) := by decide +kernel
/-- V29. -/
theorem test_accel :
    got (exec .pAccel { field 4 4 [] [part 384 384 0 0 9] with
        p.work.ax2 := -1, p.work.ay2 := -1, p.work.jmax := 2, p.pphase := 3, env.oracle := [2, 0] })
      (fun t => (readPart t 0, t.p.pphase, t.env.oracle)) = some (part 384 384 1 (-1) 9, 4, []) := by decide +kernel
/-- V24, fourth row: the faster axis is blocked, the other is free. -/
theorem test_move_skids :
    got (exec .pMove (moving (field 4 4 [0, 6, 4, 0] [part 500 500 100 60 1]) 0x8000))
      (fun t => (readPart t 0, t.p.obm)) = some (part 500 560 (-50) 60 1, [(0, 0), (1, 4), (2, 6), (3, 0)]) := by
  decide +kernel
/-- V27: a wall and a collision in one step. -/
theorem test_move_wall_and_collision :
    got (exec .pMove (moving (field 4 4 [0, 8, 8, 0] [part 1000 500 100 100 1]) 0x8000))
      (fun t => (readPart t 0, t.p.obm)) = some (part 1023 500 (-50) (-50) 1, [(0, 0), (1, 8), (2, 8), (3, 0)]) := by
  decide +kernel
theorem test_exec_finishes_tick :
    got (exec .pExec { field 2 2 [] [part 155 128 27 0 0xC0] with p.opc := 0x15, p.busy := true, p.pphase := 5 })
      (fun t => (t.p.stg, pStatus t)) = some ([(0, ⟨155, 128, 0xC0⟩)], 4) := by decide
/-- A command waiting for "consumed" (V41, V43). -/
def waitingFor (s : State) : State := { s with p.busy := true, p.pphase := 6, p.opc := 0x21, p.inflight := true }
/-- V43. -/
theorem test_wait_times_out :
    got (exec .pWait { waitingFor (board 4 4 4) with p.dropCnt := 0xFFFF_FFFF, env.oracle := [1] })
      (fun t => (pStatus t, t.p.dropCnt)) = some (0x0000_001C, 0) := by decide
/-- V41. -/
theorem test_wait_takes_token :
    got (exec .pWait { waitingFor (board 4 4 4) with c.c2pData := 2, p.c2pReqS2 := true })
      (fun t => (pStatus t, t.p.c2pAck)) = some (0, true) := by decide
theorem test_halted_rests : got (exec .pHalted { board 4 4 4 with p.halt := true, p.pphase := 7 }) pStatus
    = some 0x0000_0702 := by decide

/-! ## Consumer micro-operations -/

theorem test_off_rests : got (exec .cOff (board 4 4 4)) cStatus = some 0 := by decide
/-- V54, step 1. -/
theorem test_setbit : got (exec .cSetbit { board 2 2 2 with c.bit := 6, c.shCount := 6, c.cphase := 1 })
    (fun t => (t.c.shBit, t.c.shCount, t.c.cphase)) = some (6, 0, 2) := by decide
/-- R185's example: row 1 of a 4 x 4 matrix is words 8 to 15. -/
theorem test_dmastart : got (exec .cDmastart { board 4 4 4 with c.row := 1 })
    (fun t => (t.c.dmaIdx, t.c.dmaRem, t.c.dmaBusy)) = some (8, 8, true) := by decide
/-- V40. -/
theorem test_poll_takes : got (exec .cPoll { board 4 4 4 with p.p2cData := 1, p.p2cReq := true, c.p2cReqS2 := true })
    (fun t => (t.c.p2cAck, t.c.redrawPending, t.c.cphase)) = some (true, true, 4) := by decide
/-- V70. -/
theorem test_poll_bad_token : got (exec .cPoll { board 4 4 4 with p.p2cData := 2, c.p2cReqS2 := true })
    (fun t => (t.c.fault, t.c.p2cAck, t.c.redrawPending, t.c.trace)) = some (0x0000_0209, true, false, [Event.blank]) := by
  decide
theorem test_waitdma_holds : got (exec .cWaitdma { board 4 4 4 with c.cphase := 4, c.dmaBusy := true })
    (fun t => t.c.cphase) = some 4 := by decide
/-- V54, step 10. -/
theorem test_dummy2 : got (exec .cDummy2 { board 2 2 2 with c.shFifo := [9] }) (fun t => t.c.shFifo) = some [9, 0, 0] := by
  decide
/-- R189's example: `REDRAW_MIN_BIT = 6`, `bit = 5`: only (b). -/
theorem test_redraw_not_eligible :
    got (exec .cRedraw { board 4 4 4 with c.cfg := 0x01FF_0068, c.bit := 5, c.redrawPending := true, c.cphase := 6 })
      (fun t => (t.c.cphase, t.c.rstate)) = some (7, 0) := by decide
theorem test_redraw_slice :
    got (exec .cRedraw { board 4 4 4 with c.bit := 7, c.redrawPending := true, c.cphase := 6, env.oracle := [1] })
      (fun t => (t.c.cphase, t.c.rstate)) = some (6, 1) := by decide
/-- V54, step 17: one word short of `ROWWORDS + 2`. -/
theorem test_waitstrobe_holds : got (exec .cWaitstrobe { board 2 2 2 with c.cphase := 7, c.shCount := 5 })
    (fun t => t.c.cphase) = some 7 := by decide
/-- V54, step 18. -/
theorem test_strobe : got (exec .cStrobe { board 2 2 2 with c.bit := 6, c.shLine := [0x01, 0x38] })
    (fun t => (t.c.trace, t.c.shLine, t.c.rsBusy)) = some ([Event.rowOut 0 6 [0x01, 0x38] 64], [], true) := by decide
/-- R197's example. -/
theorem test_next_row : got (exec .cNext { board 4 4 4 with c.cfg := 0x01FF_0062, c.bit := 7, c.cphase := 9 })
    (fun t => (t.c.row, t.c.bit, t.c.cphase)) = some (1, 6, 1) := by decide
/-- V41. -/
theorem test_flip : got (exec .cFlip { board 4 4 4 with c.flipPending := true })
    (fun t => (t.c.front, t.c.frameCount, t.c.c2pData, t.c.c2pReq, t.c.flipPending)) = some (true, 1, 2, true, false) := by
  decide
/-- V70. -/
theorem test_flip_desync :
    got (exec .cFlip { board 2 2 2 with
        c.cfg := 0x01FF_0062, c.bit := 7, c.flipPending := true, c.frameCount := 5, c.c2pReq := true })
      (fun t => (t.c.fault, t.c.front, cStatus t)) = some (0x0000_0602, true, 0x0700_038B) := by decide
theorem test_chalted_rests : got (exec .cHalted { board 4 4 4 with c.halt := true, c.cphase := 11 })
    (fun t => t.c.trace) = some [] := by decide
theorem test_slice_idle : got (exec .sliceIdle { board 4 4 4 with c.rowCursor := 4, c.partCursor := 3 })
    (fun t => (t.c.rstate, t.c.rowCursor, t.c.partCursor)) = some (1, 0, 0) := by decide
/-- R192's example. -/
theorem test_slice_clear :
    got (exec .sliceClear { board 2 2 2 with
        c.rstate := 1, c.rowCursor := 1, env.background := [(32, 0), (33, 0x0040_4040)] })
      (fun t => (t.c.fb1, t.c.rowCursor, t.c.rstate)) = some ([(3, 0x0040_4040)], 2, 2) := by decide
/-- V57. -/
theorem test_slice_overdraws :
    got (exec .sliceParticles { board 4 4 4 with
        c.rstate := 2, c.redrawPending := true, p.stgCount := 2, p.stg := [(0, ⟨300, 300, 0x11⟩), (1, ⟨400, 310, 0x22⟩)] })
      (fun t => (t.c.fb1, t.c.rstate, t.c.flipPending)) = some ([(10, 0x22)], 0, true) := by decide
/-- V70: a block built with `W > SIZE`. -/
theorem test_slice_range :
    got (exec .sliceParticles { board 4 4 2 with
        c.rstate := 2, p.stgCount := 1, p.stg := [(0, ⟨600, 128, 0xC0⟩)] })
      (fun t => (t.c.fault, t.c.fb1, t.c.partCursor)) = some (0x0000_0204, [], 0) := by decide
theorem test_pollrdy_only_acks :
    got (exec .fshPollrdy { board 4 4 4 with p.p2cData := 1, p.p2cReq := true, c.p2cReqS2 := true })
      (fun t => (t.c.p2cAck, t.c.redrawPending)) = some (true, false) := by decide
/-- R167's example. -/
theorem test_sendcons : got (exec .fshSendcons (board 4 4 4)) (fun t => (t.c.c2pData, t.c.c2pReq)) = some (2, true) := by
  decide
theorem test_slice_code3 : got (exec .bpdSlice { board 4 4 4 with c.rstate := 3 }) (fun t => t.c.fault)
    = some 0xFF00_780A := by decide
theorem test_token_ready : got (exec .tokReady { board 4 4 4 with c.p2cReqS2 := true })
    (fun t => (t.c.p2cAck, t.c.redrawPending)) = some (true, true) := by decide
theorem test_token_consumed : got (exec .tokConsumed { board 4 4 4 with p.c2pReqS2 := true, p.inflight := true })
    (fun t => (t.p.c2pAck, t.p.inflight)) = some (true, false) := by decide

/-! ## Steps, agents, ports -/

/-- V70: the word is judged whole. -/
theorem test_illegal_word : got (step { board 4 4 4 with env.sched := [.hostP (.write .word 0 0x0000_0113)] })
    (fun t => t.p.fault) = some 0x0001_1305 := by decide
/-- V70. -/
theorem test_overrun : got (step { waitingFor (board 4 4 4) with env.sched := [.hostP (.write .word 0 0)] })
    (fun t => (t.p.fault, pStatus t)) = some (0x0000_0006, 0x0000_0706) := by decide
/-- V51. -/
theorem test_column : column 0x0000_00C0 0x0040_4040 6 = 0x39 ∧ column 0x0012_3456 0x00AB_CDEF 2 = 0x1B := by decide
/-- V50. -/
theorem test_pixaddr : pixaddr (board 32 32 32) 31 15 = 1022 ∧ pixaddr (board 32 32 32) 5 20 = 267 := by decide
/-- V54, step 8: the last word of the transfer. -/
theorem test_dma_ends :
    got (step { board 2 2 2 with
        c.dmaBusy := true, c.dmaIdx := 3, c.dmaRem := 1, c.fb0 := [(3, 0x0040_4040)], env.sched := [.agentDma] })
      (fun t => (t.c.shFifo, t.c.dmaBusy)) = some ([0x0040_4040], false) := by decide
/-- V54, step 14. -/
theorem test_shift_lower :
    got (step { board 2 2 2 with
        c.shBit := 6, c.shCount := 3, c.shHold := some 0, c.shLine := [1], c.shFifo := [0x0040_4040]
        env.sched := [.agentSh] })
      (fun t => (t.c.shLine, t.c.shHold, t.c.shCount)) = some ([0x01, 0x38], none, 4) := by decide
/-- V53. -/
theorem test_enable_bad_config :
    got (step { board 4 4 4 with c.cfg := 0x01FF_0070, env.sched := [.hostC (.write .word 0 1)] })
      (fun t => (t.c.fault, cStatus t, t.c.en, t.c.trace)) = some (0xFF00_700A, 0x0000_020B, false, [Event.blank]) := by
  decide
/-- V5, V53. -/
theorem test_enable : got (step { board 4 4 4 with c.cfg := 0x01FF_0062, env.sched := [.hostC (.write .word 0 1)] }) cStatus
    = some 0x0600_0001 := by decide
/-- V72. -/
theorem test_config_write_masks :
    got (step { board 4 4 4 with env.sched := [.hostP (.write .word 0x18 0xFFFF_FFFF)] }) (fun t => t.p.cfg)
    = some 0x0001_FFFF := by decide
/-- V80. -/
theorem test_reset_reads : pGeom (board 2 1 2) = 0x0000_0102 ∧ pStatus State.reset = 0 ∧ cStatus State.reset = 0 := by decide
/-- V4, V1. -/
theorem test_script : expand (.cfgBpd 2 6 512) = [.wr .cCfg 0x01FF_0062] ∧
    stmtActions (.cmd .obmSet [2, 1]) = [.hostP (.write .word 4 2), .hostP (.write .word 8 1),
      .hostP (.write .word 0 1), .hostP (.read .word 0x14)] := by decide
/-- V3. -/
theorem test_disassemble : disassemble 5 0 0 0 = ".word 0x00000005" ∧ disassemble 0x10 0x1000 0 0 = "PPE.LDBG 0x00001000" := by
  decide +kernel

/-- The rows of the opcode table as the host asks for them. -/
theorem test_table_words : decodeTableWord 32 0x13 = some .ppeIter ∧ decodeTableWord 3 6 = some .pWait ∧
    decodeTableWord 4 10 = some .cFlip ∧ decodeTableWord 2 1 = some .sliceClear ∧ decodeTableWord 32 5 = none := by decide
theorem test_fetch_word : fetch (State.reset.withFetchWord 32 0x04) = .run .obmClrall State.reset := by rfl

/-! ## Witnesses: for each statement with hypotheses, concrete states and operands that meet them together -/

/-- A state with acts to come. -/
def acting (s : State) (acts : List Action) : State := { s with env.sched := acts }

theorem witness_StepRunsDecodedOperation_command :
    (acting (board 4 4 4) [.hostP (.write .word 0 0x13)]).env.sched = .hostP (.write .word 0 0x13) :: [] ∧
    decode (.command 0x13) = .ok .ppeIter := by decide
theorem witness_StepRunsDecodedOperation_agents :
    (acting (board 4 4 4) [.agentP]).env.sched = .agentP :: [] ∧
    (acting (board 4 4 4) [.agentC]).env.sched = .agentC :: [] ∧ State.reset.env.sched = [] := by decide

/-- A reserved bit at each end of 31:8, and an unlisted opcode beside each listed range. -/
theorem witness_IllegalCommandFaults :
    ∀ w ∈ ([0x0000_0100, 0x8000_0013, 0x05, 0x0F, 0x16, 0x1F, 0x22, 0xFF] : List Word),
      (acting (board 4 4 4) [.hostP (.write .word 0 w)]).env.sched = .hostP (.write .word 0 w) :: [] ∧
      Idle (acting (board 4 4 4) [.hostP (.write .word 0 w)]) ∧
      (w.extractLsb' 8 24 ≠ 0 ∨
        w.extractLsb' 0 8 ∉ ([0x00, 0x01, 0x02, 0x03, 0x04, 0x10, 0x11, 0x12, 0x13, 0x14, 0x15, 0x20, 0x21]
          : List (BitVec 8))) := by
  intro w hw
  unfold Idle
  fin_cases hw <;> decide

theorem witness_CommandWhileBusyOverruns :
    let s := acting (waitingFor (board 4 4 4)) [.hostP (.write .word 0 0x0000_0100)];
    s.env.sched = .hostP (.write .word 0 0x0000_0100) :: [] ∧ s.p.halt = false ∧ s.p.busy = true := by decide

theorem witness_NopOnlyRuns : Idle State.reset := ⟨rfl, rfl⟩

/-- The last cell, the first column outside, the first row outside. -/
theorem witness_SetAndClearWriteOneBit :
    (let s := withArgs (board 32 4 4) 31 3 0;
      Idle s ∧ s.geom.wf = true ∧ s.p.arg0.toNat < s.geom.w ∧ s.p.arg1.toNat < s.geom.h) ∧
    (let s := withArgs (board 32 4 4) 32 3 0;
      Idle s ∧ s.geom.wf = true ∧ (s.geom.w ≤ s.p.arg0.toNat ∨ s.geom.h ≤ s.p.arg1.toNat)) ∧
    (let s := withArgs (board 32 4 4) 31 4 0;
      Idle s ∧ s.geom.wf = true ∧ (s.geom.w ≤ s.p.arg0.toNat ∨ s.geom.h ≤ s.p.arg1.toNat)) := by
  unfold Idle
  decide

theorem witness_GetReadsOneBit :
    (let s := withArgs (board 32 4 4) 31 3 0;
      Idle s ∧ s.p.arg0.toNat < s.geom.w ∧ s.p.arg1.toNat < s.geom.h) ∧
    (let s := withArgs (board 32 4 4) 0xFFFF_FFFF 3 0;
      Idle s ∧ (s.geom.w ≤ s.p.arg0.toNat ∨ s.geom.h ≤ s.p.arg1.toNat)) ∧
    (let s := withArgs (board 32 4 4) 31 4 0;
      Idle s ∧ (s.geom.w ≤ s.p.arg0.toNat ∨ s.geom.h ≤ s.p.arg1.toNat)) := by
  unfold Idle
  decide

theorem witness_ClearAllZeroesTheBitmap : Idle (field 2 2 [3, 1] []) := ⟨rfl, rfl⟩

/-- The image of V16, known in host memory; and an aligned base of which nothing is known. -/
theorem witness_LoadBackgroundMarksObstacles :
    let s := withArgs (withMemory (field 2 2 [0, 0] []) 0x1000 [0, 0, 0, 0x0040_4040]) 0x1000 0 0;
    Idle s ∧ s.geom.wf = true ∧ s.p.arg0.extractLsb' 0 2 = 0 ∧
    (∀ k, k < s.geom.h * s.geom.w → (knownWord s (s.p.arg0 + BitVec.ofNat 32 (4 * k))).isSome = true) := by
  unfold Idle
  decide +kernel
theorem witness_LoadBackgroundMarksObstacles_unknown :
    let s := withArgs (board 2 2 2) 0xFFFF_FFFC 0 0;
    Idle s ∧ s.geom.wf = true ∧ s.p.arg0.extractLsb' 0 2 = 0 := by
  unfold Idle
  decide

theorem witness_LoadsCheckCapacityThenAlignment :
    (let s := withArgs (board 4 4 4) 0x1002 513 0; Idle s ∧ 512 < s.p.arg1.toNat) ∧
    (let s := withArgs (board 4 4 4) 0x1002 512 0;
      Idle s ∧ s.p.arg1.toNat ≤ 512 ∧ s.p.arg0.extractLsb' 0 2 ≠ 0) ∧
    (let s := withArgs (board 4 4 4) 0x1001 0 0; Idle s ∧ s.p.arg0.extractLsb' 0 2 ≠ 0) := by
  unfold Idle
  decide

/-- One triple in the last cell; then none. -/
theorem witness_LoadParticlesFillsTheTable :
    let s := withArgs (withMemory (board 4 4 4) 0x2000 [3, 3, 0xFF]) 0x2000 1 0;
    Idle s ∧ s.geom.wf = true ∧ s.p.arg1.toNat ≤ 512 ∧ s.p.arg0.extractLsb' 0 2 = 0 ∧
    (∀ k, k < s.p.arg1.toNat →
      knownWord s (s.p.arg0 + BitVec.ofNat 32 (12 * k)) = some 3 ∧
      knownWord s (s.p.arg0 + BitVec.ofNat 32 (12 * k + 4)) = some 3 ∧
      knownWord s (s.p.arg0 + BitVec.ofNat 32 (12 * k + 8)) = some 0xFF ∧
      (3 : Word).toNat < s.geom.w ∧ (3 : Word).toNat < s.geom.h) := by
  unfold Idle
  decide +kernel
theorem witness_LoadParticlesFillsTheTable_none :
    let s := withArgs (board 4 4 4) 0x2000 0 0;
    Idle s ∧ s.geom.wf = true ∧ s.p.arg1.toNat ≤ 512 ∧ s.p.arg0.extractLsb' 0 2 = 0 ∧ ¬0 < s.p.arg1.toNat := by
  unfold Idle
  decide

/-- V17: triple 0 in the field, triple 1 in the first column outside; `m = 1`. -/
theorem witness_LoadParticlesStopsAtBadTriple :
    let s := withArgs (withMemory (board 4 4 4) 0x2000 [0, 0, 1, 4, 0, 2]) 0x2000 2 0;
    let cx : Nat → Word := fun k => if k = 0 then 0 else 4
    let cy : Nat → Word := fun _ => 0
    let col : Nat → Word := fun k => if k = 0 then 1 else 2
    Idle s ∧ s.geom.wf = true ∧ s.p.arg1.toNat ≤ 512 ∧ s.p.arg0.extractLsb' 0 2 = 0 ∧ 1 < s.p.arg1.toNat ∧
    (∀ k, k < 2 →
      knownWord s (s.p.arg0 + BitVec.ofNat 32 (12 * k)) = some (cx k) ∧
      knownWord s (s.p.arg0 + BitVec.ofNat 32 (12 * k + 4)) = some (cy k) ∧
      knownWord s (s.p.arg0 + BitVec.ofNat 32 (12 * k + 8)) = some (col k)) ∧
    (∀ k, k < 1 → (cx k).toNat < s.geom.w ∧ (cy k).toNat < s.geom.h) ∧
    (s.geom.w ≤ (cx 1).toNat ∨ s.geom.h ≤ (cy 1).toNat) := by
  unfold Idle
  decide +kernel

/-- Two particles, one at rest, one at the far corner of the field at the speed bound. -/
def corner : State := field 3 2 [1, 4] [part 128 128 0 0 1, part 767 511 256 0 2]

theorem corner_contained : Contained corner := by
  unfold Contained InField
  decide +kernel

theorem witness_IterateContainsAndBoundsSpeed :
    Idle corner ∧ corner.p.inflight = false ∧ corner.geom.wf = true ∧ corner.p.count.toNat ≤ 512 ∧ Contained corner :=
  ⟨⟨rfl, rfl⟩, rfl, by decide, by decide, corner_contained⟩

/-- The narrowest field of the statement, with an obstacle beside a particle. -/
def beside : State := field 3 1 [3] [part 128 128 0 0 1]

theorem witness_IterateKeepsBitmapConsistent :
    Idle beside ∧ beside.p.inflight = false ∧ beside.geom.wf = true ∧ 3 ≤ beside.geom.w ∧
    beside.p.count.toNat ≤ 512 ∧ Contained beside ∧ Consistent (fun x y => x == 1 && y == 0) beside := by
  refine ⟨⟨rfl, rfl⟩, rfl, by decide, by decide, by decide, ?_, ⟨?_, ?_, ?_⟩⟩
  · unfold Contained InField
    decide +kernel
  · intro x y hx hy
    have hk : ∀ k, k < beside.p.count.toNat ↔ k = 0 := fun k => Nat.lt_one_iff
    have hx3 : x < 3 := hx
    have hy1 : y < 1 := hy
    simp only [hk]
    interval_cases y
    interval_cases x
    · exact iff_of_true (by decide) (.inr ⟨0, rfl, by decide, by decide⟩)
    · exact iff_of_true (by decide) (.inl (by decide))
    · refine iff_of_false (by decide) ?_
      rintro (h | ⟨k, rfl, h, -⟩)
      · exact absurd h (by decide)
      · exact absurd h (by decide)
  · decide +kernel
  · intro j k hj hk _ _
    have h1 : j < 1 := hj
    have h2 : k < 1 := hk
    omega

theorem witness_GateFaultsWhileInFlight :
    let s := { board 4 4 4 with p.inflight := true };
    Idle s ∧ s.p.inflight = true := by
  unfold Idle
  decide

/-- The scenario of the source, with `SCALE` at the bound of the statement. -/
theorem witness_FlatGravityMovesRight :
    let s := withArgs { field 2 1 [1] [part 128 128 0 0 0xFF] with p.cfg := 0x0000_800C } 128 0 0;
    Idle s ∧ s.p.inflight = false ∧ s.geom.w = 2 ∧ s.geom.h = 1 ∧ s.p.count = 1 ∧
    readPart s 0 = ⟨128, 128, 0, 0, 0xFF⟩ ∧ obmBit s 1 0 = false ∧ 12 ≤ cfgScale s ∧ cfgElasticity s = 128 ∧
    s.p.arg0 = 128 ∧ s.p.arg1 = 0 ∧ s.p.arg2 = 0 :=
  ⟨⟨rfl, rfl⟩, rfl, rfl, rfl, rfl, rfl, by decide, by decide, by decide, rfl, rfl, rfl⟩

/-- A full table, and an empty one. -/
theorem witness_SnapshotCopiesActiveEntries : ∀ n ∈ ([0, 512] : List (BitVec 10)),
    let s := { board 4 4 4 with p.count := n };
    Idle s ∧ s.p.inflight = false ∧ s.p.count.toNat ≤ 512 := by
  unfold Idle
  decide

/-- The slot seen empty, and seen full. -/
theorem witness_TickIsIterateSnapSend :
    Idle corner ∧ corner.p.inflight = false ∧ corner.geom.wf = true ∧ corner.p.count.toNat ≤ 512 ∧
    Contained corner ∧ p2cFullSeen corner = false :=
  ⟨⟨rfl, rfl⟩, rfl, by decide, by decide, corner_contained, by decide⟩
theorem witness_TickIsIterateSnapSend_full :
    let s := { corner with p.p2cReq := true };
    Idle s ∧ s.p.inflight = false ∧ s.geom.wf = true ∧ s.p.count.toNat ≤ 512 ∧ Contained s ∧ p2cFullSeen s = true :=
  ⟨⟨rfl, rfl⟩, rfl, by decide, by decide, corner_contained, by decide⟩

/-- A frame in flight, with the word `w` in C2P, visible to the producer or not. -/
def answered (w : Word) (visible : Bool) : State :=
  { board 4 4 4 with p.inflight := true, c.c2pData := w, c.c2pReq := true, p.c2pReqS2 := visible }

theorem witness_TickWaitsWhileInFlight :
    (Idle (answered 2 false) ∧ (answered 2 false).p.inflight = true ∧ c2pAvail (answered 2 false) = false) ∧
    (Idle (answered 2 true) ∧ (answered 2 true).p.inflight = true ∧ c2pAvail (answered 2 true) = true ∧
      (answered 2 true).c.c2pData = 2) ∧
    (Idle (answered 1 true) ∧ (answered 1 true).p.inflight = true ∧ c2pAvail (answered 1 true) = true ∧
      (answered 1 true).c.c2pData ≠ 2) := by
  unfold Idle
  decide

theorem witness_SendReadyFillsTheSlot :
    (Idle (board 4 4 4) ∧ (board 4 4 4).p.inflight = false ∧ p2cFullSeen (board 4 4 4) = false) ∧
    (let s := { board 4 4 4 with p.p2cReq := true };
      Idle s ∧ s.p.inflight = false ∧ p2cFullSeen s = true) := by
  unfold Idle
  decide

theorem witness_WaitConsumedReturnsOrWaits :
    (Idle (board 4 4 4) ∧ (board 4 4 4).p.inflight = false) ∧
    (Idle (answered 2 true) ∧ (answered 2 true).p.inflight = true ∧ c2pAvail (answered 2 true) = true ∧
      (answered 2 true).c.c2pData = 2) ∧
    (Idle (answered 1 true) ∧ (answered 1 true).p.inflight = true ∧ c2pAvail (answered 1 true) = true ∧
      (answered 1 true).c.c2pData ≠ 2) ∧
    (Idle (answered 2 false) ∧ (answered 2 false).p.inflight = true ∧ c2pAvail (answered 2 false) = false) := by
  unfold Idle
  decide

/-- The waits that see a token: of a `FSH.WAITCONS`, of a `PPE.TICK`, and of another word. -/
theorem witness_WaitStepTakesTokenOrTimesOut_token :
    (let s := waitingFor (answered 2 true);
      s.p.halt = false ∧ s.p.inflight = true ∧ c2pAvail s = true ∧ s.c.c2pData = 2 ∧ s.p.opc ≠ 0x15) ∧
    (let s := { waitingFor (answered 2 true) with p.opc := 0x15 };
      s.p.halt = false ∧ s.p.inflight = true ∧ c2pAvail s = true ∧ s.c.c2pData = 2 ∧ s.p.opc = 0x15) ∧
    (let s := waitingFor (answered 1 true);
      s.p.halt = false ∧ s.p.inflight = true ∧ c2pAvail s = true ∧ s.c.c2pData ≠ 2) := by decide
/-- The waits that see none, with each free choice; the waits for the outbound slot; and another latched command with
nothing in flight. -/
theorem witness_WaitStepTakesTokenOrTimesOut_none :
    (let s := { waitingFor (answered 2 false) with env.oracle := [1] };
      s.p.halt = false ∧ s.p.inflight = true ∧ c2pAvail s = false ∧ (choose s).1 = true) ∧
    (let s := { waitingFor (answered 2 false) with env.oracle := [0] };
      s.p.halt = false ∧ s.p.inflight = true ∧ c2pAvail s = false ∧ (choose s).1 = false) ∧
    (let s := { board 4 4 4 with p.busy := true, p.pphase := 6, p.opc := 0x20 };
      s.p.halt = false ∧ s.p.inflight = false ∧ (s.p.opc = 0x20 ∨ s.p.opc = 0x15) ∧ p2cFullSeen s = false) ∧
    (let s := { board 4 4 4 with p.busy := true, p.pphase := 6, p.opc := 0x15, p.p2cReq := true };
      s.p.halt = false ∧ s.p.inflight = false ∧ (s.p.opc = 0x20 ∨ s.p.opc = 0x15) ∧ p2cFullSeen s = true) ∧
    (let s := { board 4 4 4 with p.busy := true, p.pphase := 6, p.opc := 0x21, p.lastTimeout := true };
      s.p.halt = false ∧ s.p.inflight = false ∧ s.p.opc ≠ 0x20 ∧ s.p.opc ≠ 0x15) := by
  decide

theorem witness_ScaleFollowsTheFormula : (board 4 4 4).p.halt = false := rfl

theorem witness_SortIsAStablePermutation :
    (let s := { board 4 4 4 with p.count := 512 };
      s.p.halt = false ∧ s.p.count.toNat ≤ 512 ∧ s.p.cfg.getLsbD 16 = false) ∧
    (let s := { corner with p.cfg := 0x0001_8040, p.work.ax2 := 123, p.work.ay2 := -5 };
      s.p.halt = false ∧ s.p.count.toNat ≤ 512 ∧ s.p.cfg.getLsbD 16 = true) := by decide

theorem witness_SortDirectionIsNearest : ((12 : Int) ≠ 0 ∨ (5 : Int) ≠ 0) ∧ ((0 : Int) ≠ 0 ∨ (-7 : Int) ≠ 0) := by decide

/-- The last particle of the table, with two listed draws at the ends of the range. -/
theorem witness_AccelerateAddsTiltAndJitter :
    let s := { corner with p.i := 1, p.work.jmax := 10, env.oracle := [0, 10] };
    s.p.halt = false ∧ s.p.count.toNat ≤ 512 ∧ s.p.i.toNat < s.p.count.toNat ∧
    s.env.oracle = 0 :: 10 :: [] ∧ 0 ≤ s.p.work.jmax ∧ 10 ≤ s.p.work.jmax := by decide

/-- Particle 0 of a 4 by 4 field, at a position, about to move by a velocity. -/
def aboutAt (rows : List Word) (x y : Nat) (vx vy : Int) : State := moving (field 4 4 rows [part x y vx vy 1]) 0x8000

/-- The same in cell (1, 1). -/
def about (rows : List Word) (vx vy : Int) : State := aboutAt rows 500 500 vx vy

/-- The candidate as 41_ppe.md R133 has it, written as the two statements about `P.MOVE` write it. -/
def target (s : State) : Motion :=
  let q := readPart s s.p.i.toNat
  let e := (s.p.cfg.extractLsb' 8 8).toNat
  let ox : Int := q.x.toNat
  let oy : Int := q.y.toNat
  let vx := q.vx.toInt
  let vy := q.vy.toInt
  let xMax : Int := s.geom.w * 256 - 1
  let yMax : Int := s.geom.h * 256 - 1
  { nx := if ox + vx < 0 then 0 else if xMax < ox + vx then xMax else ox + vx
    ny := if oy + vy < 0 then 0 else if yMax < oy + vy then yMax else oy + vy
    vx := if ox + vx < 0 ∨ xMax < ox + vx then bounce e vx else vx
    vy := if oy + vy < 0 ∨ yMax < oy + vy then bounce e vy else vy }

/-- V22 and its mirror: clamped at each wall, and arriving exactly there. -/
theorem test_target_at_walls :
    target (aboutAt [0, 0, 8, 0] 1023 512 205 (-513)) = ⟨1023, 0, -102, 256⟩ ∧
    target (aboutAt [0, 0, 8, 0] 924 512 100 512) = ⟨1023, 1023, -50, -256⟩ ∧
    target (aboutAt [0, 0, 8, 0] 923 512 100 (-512)) = ⟨1023, 0, 100, -512⟩ ∧
    target (aboutAt [0, 0, 1, 0] 0 512 (-205) 511) = ⟨0, 1023, 102, 511⟩ := by decide +kernel

/-- The hypotheses on the state that the two statements about `P.MOVE` share. -/
def MayMove (s : State) : Prop :=
  s.p.halt = false ∧ s.geom.wf = true ∧ s.p.count.toNat ≤ 512 ∧ s.p.i.toNat < s.p.count.toNat ∧ InField s s.p.i.toNat

/-- The linear cell index of the particle that is about to move. -/
def sourceIndex (s : State) : Int :=
  let q := readPart s s.p.i.toNat
  cellIndex s q.x.toNat q.y.toNat

/-- A candidate in the particle's own cell, one in a free cell; then clamped at a wall, and arriving exactly there. -/
theorem witness_MoveIntoFreeCell :
    (let s := about [0, 2, 0, 0] 11 0;
      MayMove s ∧ sourceIndex s = cellIndex s (target s).nx (target s).ny) ∧
    (let s := about [0, 2, 0, 0] 12 0;
      MayMove s ∧ obmBit s (cellOf (target s).nx) (cellOf (target s).ny) = false) ∧
    (let s := aboutAt [0, 0, 8, 0] 1023 600 205 0;
      MayMove s ∧ sourceIndex s = cellIndex s (target s).nx (target s).ny) ∧
    (let s := aboutAt [0, 0, 4, 0] 767 600 256 0;
      MayMove s ∧ obmBit s (cellOf (target s).nx) (cellOf (target s).ny) = false) := by
  unfold MayMove InField
  decide +kernel

/-- The index difference of the candidate. -/
def difference (s : State) : Nat := (cellIndex s (target s).nx (target s).ny - sourceIndex s).natAbs

/-- What `MoveResolvesCollision` asks of a state: the shared hypotheses, another cell, and that cell occupied. -/
def Collides (s : State) : Prop :=
  MayMove s ∧ difference s ≠ 0 ∧ obmBit s (cellOf (target s).nx) (cellOf (target s).ny) = true

/-- What the diagonal rule looks at: whether x is at least as fast, and the two single-axis cells. -/
def diagonal (s : State) : Bool × Bool × Bool :=
  let q := readPart s s.p.i.toNat
  let m := target s
  (decide (|m.vx| ≥ |m.vy|), obmBit s (cellOf m.nx) (cellOf q.y.toNat), obmBit s (cellOf q.x.toNat) (cellOf m.ny))

theorem witness_MoveResolvesCollision_axis :
    (Collides (about [0, 6, 0, 0] 12 0) ∧ difference (about [0, 6, 0, 0] 12 0) = 1) ∧
    (Collides (about [0, 2, 2, 0] 0 12) ∧ difference (about [0, 2, 2, 0] 0 12) ≠ 1 ∧
      difference (about [0, 2, 2, 0] 0 12) = (about [0, 2, 2, 0] 0 12).geom.w) := by
  unfold Collides MayMove InField
  decide +kernel
/-- The six diagonal cases. -/
theorem witness_MoveResolvesCollision_diagonal :
    ∀ e ∈ ([([0, 2, 4, 0], 100, true, false, false), ([0, 6, 4, 0], 100, true, true, false),
        ([0, 6, 6, 0], 100, true, true, true), ([0, 2, 4, 0], 99, false, false, false),
        ([0, 2, 6, 0], 99, false, false, true), ([0, 6, 6, 0], 99, false, true, true)]
        : List (List Word × Int × Bool × Bool × Bool)),
      Collides (about e.1 e.2.1 100) ∧ difference (about e.1 e.2.1 100) ≠ 1 ∧
      difference (about e.1 e.2.1 100) ≠ (about e.1 e.2.1 100).geom.w ∧ diagonal (about e.1 e.2.1 100) = e.2.2 := by
  unfold Collides MayMove InField
  decide +kernel

theorem witness_ExecPhaseFinishesATick :
    (let s := { corner with p.opc := 0x15, p.busy := true, p.pphase := 5 };
      s.p.halt = false ∧ s.p.opc = 0x15 ∧ s.p.inflight = false ∧ s.p.count.toNat ≤ 512 ∧ p2cFullSeen s = false) ∧
    (let s := { corner with p.opc := 0x15, p.busy := true, p.pphase := 5, p.p2cReq := true };
      s.p.halt = false ∧ s.p.opc = 0x15 ∧ s.p.inflight = false ∧ s.p.count.toNat ≤ 512 ∧ p2cFullSeen s = true) := by
  decide

theorem witness_MicroOperationsRefineIterate : Idle corner ∧ corner.p.inflight = false := ⟨⟨rfl, rfl⟩, rfl⟩

theorem witness_SlotOperationsWriteTheirRegisters : (board 2 2 2).c.halt = false := rfl

theorem witness_SlotWaitsHoldUntilReady :
    (let s := { board 2 2 2 with c.cphase := 4 }; s.c.halt = false ∧ s.c.dmaBusy = false) ∧
    (let s := { board 2 2 2 with c.cphase := 4, c.dmaBusy := true }; s.c.halt = false ∧ s.c.dmaBusy = true) ∧
    (let s := { board 2 2 2 with c.cphase := 7, c.shCount := 6 };
      s.c.halt = false ∧ s.c.rsBusy = false ∧ s.c.shFifo = [] ∧ s.c.shCount.toNat = 2 * s.geom.size + 2) ∧
    (let s := { board 2 2 2 with c.cphase := 7, c.shCount := 5 };
      s.c.halt = false ∧
      ¬(s.c.rsBusy = false ∧ s.c.shFifo = [] ∧ s.c.shCount.toNat = 2 * s.geom.size + 2)) := by decide

/-- Bit 6; bit 7 of the row before the last, of the largest matrix; bit 7 of the last row. -/
theorem witness_NextAdvancesTheSlot :
    (let s := { board 32 32 32 with c.bit := 6 }; s.c.halt = false ∧ s.c.bit.toNat < 7) ∧
    (let s := { board 32 32 32 with c.bit := 7, c.row := 14 };
      s.c.halt = false ∧ s.c.bit.toNat = 7 ∧ s.c.row.toNat + 1 < scan s ∧ s.geom.size ≤ 32) ∧
    (let s := { board 32 32 32 with c.bit := 7, c.row := 15 };
      s.c.halt = false ∧ s.c.bit.toNat = 7 ∧ scan s ≤ s.c.row.toNat + 1) := by decide

/-- The word `w` in P2C, visible to the consumer or not. -/
def offered (w : Word) (visible : Bool) : State :=
  { board 4 4 4 with p.inflight := true, p.p2cData := w, p.p2cReq := true, c.p2cReqS2 := visible }

theorem witness_PollTakesAVisibleToken :
    ((offered 1 false).c.halt = false ∧ p2cAvail (offered 1 false) = false) ∧
    ((offered 1 true).c.halt = false ∧ p2cAvail (offered 1 true) = true ∧ (offered 1 true).p.p2cData = 1) ∧
    ((offered 2 true).c.halt = false ∧ p2cAvail (offered 2 true) = true ∧ (offered 2 true).p.p2cData ≠ 1) := by decide

/-- At C.REDRAW with `REDRAW_MIN_BIT = 7`: bit 6 with a redraw pending, bit 7 with none, bit 7 with one and each free
choice; and each code of `rstate`. -/
theorem witness_RedrawChoosesSliceOrGoesOn :
    (∀ e ∈ ([(6, true), (7, false)] : List (BitVec 3 × Bool)),
      let s := { board 4 4 4 with c.bit := e.1, c.redrawPending := e.2 };
      s.c.halt = false ∧ ¬((s.c.cfg.extractLsb' 4 3).toNat ≤ s.c.bit.toNat ∧ s.c.redrawPending = true)) ∧
    (∀ n ∈ ([0, 1] : List Nat),
      let s := { board 4 4 4 with c.bit := 7, c.redrawPending := true, env.oracle := [n] };
      s.c.halt = false ∧ (s.c.cfg.extractLsb' 4 3).toNat ≤ s.c.bit.toNat ∧ s.c.redrawPending = true ∧
      (choose s).1 = decide (n = 1)) ∧
    (∀ code ∈ ([0, 1, 2, 3] : List (BitVec 2)),
      let s := { board 4 4 4 with c.rstate := code };
      s.c.halt = false ∧ s.c.rstate = code) := by decide

theorem witness_FlipSwapsCountsAndSends :
    ((board 4 4 4).c.halt = false ∧ (board 4 4 4).c.flipPending = false ∧ c2pFullSeen (board 4 4 4) = false) ∧
    (let s := { board 4 4 4 with c.flipPending := true, c.frameCount := 0xFFFF_FFFF };
      s.c.halt = false ∧ s.c.flipPending = true ∧ c2pFullSeen s = false) ∧
    (let s := { board 4 4 4 with c.flipPending := true, c.c2pReq := true };
      s.c.halt = false ∧ s.c.flipPending = true ∧ c2pFullSeen s = true) := by decide

/-- The last row, with a known pixel in its last column. -/
theorem witness_ClearSliceRedrawsOneRow :
    let s := { board 4 4 4 with c.rstate := 1, c.rowCursor := 3, env.background := [(99, 0x0040_4040)] };
    s.c.halt = false ∧ s.geom.wf = true ∧ s.c.rowCursor.toNat < s.geom.size ∧
    3 < s.geom.size ∧ knownPixel s 3 s.c.rowCursor.toNat = some 0x0040_4040 := by decide

/-- Two staged particles of one pixel; nothing left to draw; and a particle beside the matrix after one inside
(`m = 1`, so that `k = 0` is drawn before the fault). -/
theorem witness_ParticlesSliceDrawsOneChunk :
    (let s := { board 4 4 4 with
        c.rstate := 2, p.stgCount := 2, p.stg := [(0, ⟨300, 1023, 0x11⟩), (1, ⟨400, 1000, 0x22⟩)] };
      s.c.halt = false ∧ s.geom.wf = true ∧ s.p.stgCount.toNat ≤ 512 ∧ s.c.partCursor.toNat ≤ s.p.stgCount.toNat ∧
      ∀ k, k < 0 + min ((s.c.cfg.extractLsb' 16 10).toNat + 1) (s.p.stgCount.toNat - 0) →
        (stgRead s k).x.toNat / 256 < s.geom.size ∧ (stgRead s k).y.toNat / 256 < s.geom.size) ∧
    (let s := { board 4 4 4 with c.rstate := 2, c.partCursor := 512, p.stgCount := 512 };
      s.c.halt = false ∧ s.geom.wf = true ∧ s.p.stgCount.toNat ≤ 512 ∧ s.c.partCursor.toNat ≤ s.p.stgCount.toNat) ∧
    (let s := { board 4 4 2 with
        c.rstate := 2, p.stgCount := 2, p.stg := [(0, ⟨511, 128, 0xC1⟩), (1, ⟨512, 128, 0xC0⟩)] };
      s.c.halt = false ∧ s.geom.wf = true ∧ s.p.stgCount.toNat ≤ 512 ∧ s.c.partCursor.toNat ≤ s.p.stgCount.toNat ∧
      s.c.partCursor.toNat ≤ 1 ∧
      1 < s.c.partCursor.toNat + min ((s.c.cfg.extractLsb' 16 10).toNat + 1) (s.p.stgCount.toNat - s.c.partCursor.toNat) ∧
      (∀ k, k < 1 → (stgRead s k).x.toNat / 256 < s.geom.size ∧ (stgRead s k).y.toNat / 256 < s.geom.size) ∧
      (s.geom.size ≤ (stgRead s 1).x.toNat / 256 ∨ s.geom.size ≤ (stgRead s 1).y.toNat / 256)) := by
  decide +kernel

theorem witness_TokensAreTakenByTheirReceivers :
    ((offered 1 true).c.halt = false ∧ p2cAvail (offered 1 true) = true) ∧ p2cAvail (offered 1 false) = false ∧
    ((answered 2 true).p.halt = false ∧ c2pAvail (answered 2 true) = true) ∧ c2pAvail (answered 2 false) = false := by
  decide

/-- DMA idle and at the last word; SH with nothing, a dummy word, an upper and a lower pixel; RS. -/
theorem witness_HelperAgentsStep_dma_rs :
    (let s := acting (board 2 2 2) [.agentDma]; s.c.halt = false ∧ s.env.sched = .agentDma :: [] ∧ s.c.dmaBusy = false) ∧
    (let s := acting { board 2 2 2 with c.dmaBusy := true, c.dmaIdx := 3, c.dmaRem := 1 } [.agentDma];
      s.c.halt = false ∧ s.env.sched = .agentDma :: [] ∧ s.c.dmaBusy = true ∧ s.c.dmaIdx.toNat < fbWords s) ∧
    (let s := acting { board 2 2 2 with c.rsBusy := true } [.agentRs];
      s.c.halt = false ∧ s.env.sched = .agentRs :: []) := by decide
theorem witness_HelperAgentsStep_sh :
    (let s := acting (board 2 2 2) [.agentSh]; s.c.halt = false ∧ s.env.sched = .agentSh :: [] ∧ s.c.shFifo = []) ∧
    (let s := acting { board 2 2 2 with c.shFifo := [9], c.shCount := 4 } [.agentSh];
      s.c.halt = false ∧ s.env.sched = .agentSh :: [] ∧ s.c.shFifo = 9 :: [] ∧ 2 * s.geom.size ≤ s.c.shCount.toNat) ∧
    (let s := acting { board 2 2 2 with c.shFifo := [9], c.shCount := 2 } [.agentSh];
      s.c.halt = false ∧ s.env.sched = .agentSh :: [] ∧ s.c.shFifo = 9 :: [] ∧ s.c.shCount.toNat < 2 * s.geom.size ∧
      s.c.shCount.toNat % 2 = 0) ∧
    (let s := acting { board 2 2 2 with c.shFifo := [9], c.shCount := 3, c.shHold := some 7 } [.agentSh];
      s.c.halt = false ∧ s.env.sched = .agentSh :: [] ∧ s.c.shFifo = 9 :: [] ∧ s.c.shCount.toNat < 2 * s.geom.size ∧
      s.c.shCount.toNat % 2 = 1 ∧ s.c.shHold = some 7) := by decide

theorem witness_SynchronisersShiftTheToggles :
    (acting (board 4 4 4) [.syncC, .syncC]).env.sched = .syncC :: .syncC :: [] ∧
    (acting (board 4 4 4) [.syncP, .syncP]).env.sched = .syncP :: .syncP :: [] := by decide

/-- A write to a port with an offset and a value: the hypotheses on the state that its clauses ask for. -/
theorem witness_ProducerPortWrites :
    (∀ off ∈ ([0x04, 0x08, 0x0C, 0x14, 0x18, 0x24, 0x2C] : List Word),
      let s := acting (board 4 4 4) [.hostP (.write .word off 0xFFFF_FFFF)];
      s.env.sched = .hostP (.write .word off 0xFFFF_FFFF) :: [] ∧ s.p.busy = false) ∧
    (∀ off ∈ ([0x18, 0x24] : List Word),
      let s := acting (waitingFor (board 4 4 4)) [.hostP (.write .word off 5)];
      s.env.sched = .hostP (.write .word off 5) :: [] ∧ s.p.busy = true) ∧
    (∀ off ∈ ([0x10, 0x28, 0x3C, 0x40, 0xFC, 0x100] : List Word),
      let s := acting (board 4 4 4) [.hostP (.write .word off 5)];
      s.env.sched = .hostP (.write .word off 5) :: [] ∧
      off ∉ ([0x00, 0x04, 0x08, 0x0C, 0x14, 0x18, 0x24, 0x2C] : List Word)) ∧
    (let s := acting (board 4 4 4) [.hostP (.write .half 0x00 0x13)];
      s.env.sched = .hostP (.write .half 0x00 0x13) :: [] ∧ AccessSize.half ≠ .word) ∧
    (let s := acting (board 4 4 4) [.hostP (.write .word 0x01 0x13)];
      s.env.sched = .hostP (.write .word 0x01 0x13) :: [] ∧ (0x01 : Word).extractLsb' 0 2 ≠ 0) := by
  refine ⟨?_, ?_, ?_, by decide, by decide⟩
  · intro off h
    fin_cases h <;> decide
  · intro off h
    fin_cases h <;> decide
  · intro off h
    fin_cases h <;> decide

theorem witness_PortReadsFollowTheMap_producer :
    (let s := acting (board 4 4 4) [.hostP (.read .word 0x18)];
      s.env.sched = .hostP (.read .word 0x18) :: [] ∧ s.p.cfg = 0x0000_8040) ∧
    (let s := acting (board 4 4 4) [.hostP (.read .word 0x40)];
      s.env.sched = .hostP (.read .word 0x40) :: [] ∧ 0x40 ≤ (0x40 : Word) ∧ (0x40 : Word).extractLsb' 0 2 = 0) ∧
    (let s := acting { corner with p.partIdx := 1 } [.hostP (.read .word 0x34)];
      s.env.sched = .hostP (.read .word 0x34) :: [] ∧ s.p.busy = false ∧ s.p.partIdx < s.p.count ∧
      (readPart s s.p.partIdx.toNat).vy ++ (readPart s s.p.partIdx.toNat).vx = 0x0000_0100#32) ∧
    (acting (board 4 4 4) [.hostP (.read .byte 0x30)]).env.sched = .hostP (.read .byte 0x30) :: [] := by decide
theorem witness_PortReadsFollowTheMap_consumer :
    (let s := acting (board 4 4 4) [.hostC (.read .word 0x18)];
      s.env.sched = .hostC (.read .word 0x18) :: [] ∧ cCursor s = 0) ∧
    (let s := acting (board 4 4 4) [.hostC (.read .word 0x1C)];
      s.env.sched = .hostC (.read .word 0x1C) :: [] ∧ 0x1C ≤ (0x1C : Word) ∧ (0x1C : Word).extractLsb' 0 2 = 0) ∧
    (acting (board 4 4 4) [.hostC (.read .half 0x04)]).env.sched = .hostC (.read .half 0x04) :: [] ∧
    (acting (board 4 4 4) [.hostC (.read .word 0x06)]).env.sched = .hostC (.read .word 0x06) :: [] ∧
    (board 32 1 2).geom.wf = true := by
  decide

/-- Enabling with legal configurations at the ends of their ranges, and with illegal ones beside them. -/
theorem witness_ConsumerPortWritesAndEnable_enable :
    ∀ e ∈ ([(0x01FF_0078, true), (0x01FF_0071, true), (0x0000_0008, true), (0x01FF_0061, false), (0x01FF_0070, false),
        (0x01FF_0079, false), (0x0200_0078, false)] : List (Word × Bool)),
      let s := acting { board 4 4 4 with c.cfg := e.1 } [.hostC (.write .word 0x00 1)];
      s.env.sched = .hostC (.write .word 0x00 1) :: [] ∧ (1 : Word).getLsbD 0 = true ∧ s.c.en = false ∧
      s.c.halt = false ∧
      (let depth := (s.c.cfg.extractLsb' 0 4).toNat;
        (1 ≤ depth ∧ depth ≤ 8 ∧ 8 - depth ≤ (s.c.cfg.extractLsb' 4 3).toNat ∧
          (s.c.cfg.extractLsb' 16 10).toNat ≤ 511) ↔ e.2 = true) := by
  intro e h
  fin_cases h <;> decide
theorem witness_ConsumerPortWritesAndEnable_writes :
    (let s := acting { board 4 4 4 with c.en := true } [.hostC (.write .word 0x00 1)];
      s.env.sched = .hostC (.write .word 0x00 1) :: [] ∧ s.c.en = true) ∧
    (∀ off ∈ ([0x08, 0x0C] : List Word),
      let s := acting (board 4 4 4) [.hostC (.write .word off 0xFFFF_FFFF)];
      s.env.sched = .hostC (.write .word off 0xFFFF_FFFF) :: [] ∧ s.c.en = false) ∧
    (∀ off ∈ ([0x08, 0x0C] : List Word),
      let s := acting { board 4 4 4 with c.en := true } [.hostC (.write .word off 5)];
      s.env.sched = .hostC (.write .word off 5) :: [] ∧ s.c.en = true) ∧
    (let s := acting (board 4 4 4) [.hostC (.write .word 0x04 5)];
      s.env.sched = .hostC (.write .word 0x04 5) :: [] ∧ (0x04 : Word) ∉ ([0x00, 0x08, 0x0C] : List Word)) ∧
    (let s := acting (board 4 4 4) [.hostC (.write .byte 0x08 5)];
      s.env.sched = .hostC (.write .byte 0x08 5) :: [] ∧ AccessSize.byte ≠ .word) := by
  refine ⟨by decide, ?_, ?_, by decide, by decide⟩
  · intro off h
    fin_cases h <;> decide
  · intro off h
    fin_cases h <;> decide

theorem witness_ResetValues :
    (acting (waitingFor (board 4 4 4)) [.reset]).env.sched = .reset :: [] := by decide

/-! ### Invariants -/

/-- The machine invariant of a state whose framebuffers are all zero, from its decidable part. -/
theorem inv_blank {s : State} (h0 : s.c.fb0 = []) (h1 : s.c.fb1 = [])
    (h : s.geom.wf = true ∧ s.p.count.toNat ≤ capacity ∧ s.p.stgCount.toNat ≤ capacity ∧ s.c.row.toNat < scan s ∧
      (s.c.dmaBusy = true → 0 < s.c.dmaRem.toNat ∧ s.c.dmaIdx.toNat + s.c.dmaRem.toNat ≤ fbWords s) ∧
      (s.c.rstate = 1 → s.c.rowCursor.toNat < s.geom.size) ∧
      (s.c.shCount.toNat < rowWords s → s.c.shCount.toNat % 2 = 1 → s.c.shHold.isSome = true) ∧
      s.p.cfg &&& ~~~pCfgMask = 0 ∧ s.c.cfg &&& ~~~cCfgMask = 0 ∧ Memory.wf s = true) : Inv s where
  geometry := h.1
  count := h.2.1
  staged := h.2.2.1
  row := h.2.2.2.1
  dma := h.2.2.2.2.1
  rowCursor := h.2.2.2.2.2.1
  held := h.2.2.2.2.2.2.1
  words := by
    intro b k _
    cases b <;> simp [fbRead, h0, h1, Store.find]
  pcfg := h.2.2.2.2.2.2.2.1
  ccfg := h.2.2.2.2.2.2.2.2.1
  memory := h.2.2.2.2.2.2.2.2.2

/-- A display in a DMA transfer of its last row, with a lower pixel due, about to move a word. -/
def transferring : State :=
  acting { board 4 4 4 with
    c.en := true, c.cphase := 4, c.row := 1, c.bit := 7, c.dmaBusy := true, c.dmaIdx := 15, c.dmaRem := 1
    c.shCount := 7, c.shHold := some 3, c.rstate := 1, c.rowCursor := 3 } [.agentDma]

theorem transferring_inv : Inv transferring := inv_blank rfl rfl (by decide)

theorem witness_StepKeepsInvariant : Inv transferring ∧ ∃ t, step transferring = .next t :=
  ⟨transferring_inv, _, rfl⟩

theorem witness_ResetSatisfiesInvariants : Geometry.wf ⟨1, 32, 2⟩ = true := by decide

theorem witness_InvariantExcludesModelStops : Inv transferring := transferring_inv

/-- A flip done and not yet seen, one edge on its way to the producer. -/
def returning : State :=
  acting { board 4 4 4 with
    p.inflight := true, p.p2cReq := true, p.p2cData := 1, p.p2cAckS1 := true, p.p2cAckS2 := true, p.c2pReqS1 := true
    c.p2cAck := true, c.p2cReqS1 := true, c.p2cReqS2 := true, c.c2pReq := true, c.c2pData := 2 } [.syncP]

theorem returning_handshake : Handshake returning := by constructor <;> decide

theorem witness_StepKeepsHandshake : Handshake returning ∧ ∃ t, step returning = .next t :=
  ⟨returning_handshake, _, rfl⟩

/-- Each place of the frame: nowhere; in P2C and visible; in a redraw; in a flip; in C2P and visible. -/
theorem witness_HandshakeExcludesItsFaults_idle : Handshake State.reset ∧ State.reset.p.inflight = false :=
  ⟨by constructor <;> decide, rfl⟩
theorem witness_HandshakeExcludesItsFaults_ready :
    let s := { offered 1 true with c.p2cReqS1 := true };
    Handshake s ∧ p2cAvail s = true ∧ p2cFull s = true := ⟨by constructor <;> decide, by decide, by decide⟩
theorem witness_HandshakeExcludesItsFaults_shown :
    let s := { offered 1 true with c.p2cReqS1 := true, c.p2cAck := true, c.flipPending := true };
    Handshake s ∧ s.c.flipPending = true := ⟨by constructor <;> decide, rfl⟩
theorem witness_HandshakeExcludesItsFaults_consumed :
    let s := { returning with p.c2pReqS2 := true };
    Handshake s ∧ c2pAvail s = true ∧ c2pFull s = true := ⟨by constructor <;> decide, by decide, by decide⟩

/-- A step of a machine both of whose domains are halted: the host writes an operand register. -/
theorem witness_HaltedDomainsStayHalted :
    let s := acting { board 4 4 4 with p.halt := true, p.pphase := 7, c.halt := true, c.cphase := 11 }
      [.hostP (.write .word 0x04 9)];
    got (step s) (fun t => decide (t.env.epoch = s.env.epoch)) = some true ∧ s.p.halt = true ∧ s.c.halt = true := by
  decide

/-- A step that changes `front`, and the two kinds of step that change `count`. -/
theorem witness_TraceFrontAndCountHaveOneWriter :
    (let s := acting { board 4 4 4 with c.en := true, c.cphase := 10, c.flipPending := true } [.agentC];
      got (step s) (fun t => decide (t.env.epoch = s.env.epoch ∧ t.c.front ≠ s.c.front)) = some true) ∧
    (let s := acting (withArgs { board 4 4 4 with p.count := 5 } 0x2000 0 0) [.hostP (.write .word 0 0x11)];
      got (step s) (fun t => decide (t.env.epoch = s.env.epoch ∧ t.p.count ≠ s.p.count)) = some true) ∧
    (let s := acting { board 4 4 4 with p.count := 5, p.busy := true, p.pphase := 5, p.opc := 0x11 } [.agentP];
      got (step s) (fun t => decide (t.env.epoch = s.env.epoch ∧ t.p.count ≠ s.p.count)) = some true) := by decide

/-- An operation of each domain that answers a next state. -/
theorem witness_OperationsKeepToTheirDomain :
    (∃ t, exec .obmClrall (board 4 4 4) = .next t) ∧ isConsumerOp .obmClrall = false ∧
    (∃ t, exec .cFlip (board 4 4 4) = .next t) ∧ isConsumerOp .cFlip = true :=
  ⟨⟨_, rfl⟩, by decide, ⟨_, rfl⟩, by decide⟩

/-- A bitmap with nothing at or above column `W`, about to be written. -/
theorem witness_StepKeepsBitmapPadding :
    let s := acting (withArgs (field 4 2 [3, 8] []) 3 0 0) [.hostP (.write .word 0 0x01)];
    s.geom.wf = true ∧ BitmapClean s ∧
    got (step s) (fun t => decide (t.env.epoch = s.env.epoch)) = some true := by
  refine ⟨by decide, ?_, by decide⟩
  intro x y hx hy
  have hx4 : 4 ≤ x := hx
  have hy2 : y < 2 := hy
  by_cases h32 : 32 ≤ x
  · exact BitVec.getLsbD_of_ge _ _ h32
  · interval_cases y <;> interval_cases x <;> decide

theorem witness_PixelAddressIsABijection :
    (board 32 32 32).geom.wf = true ∧ 31 < (board 32 32 32).geom.size ∧ 1023 < fbWords (board 32 32 32) := by decide

/-- The largest elasticity, with velocities of both signs; and a magnitude just below one unit. -/
theorem witness_BounceReversesAndShrinks :
    255 ≤ 255 ∧ (256 : Int) ≠ 0 ∧ (0 : Int) < 256 ∧ (-256 : Int) < 0 ∧ (-1 : Int).natAbs * 255 < 256 := by decide

/-- Both sides of the bound. -/
theorem witness_SpeedClampIsExact :
    (256 : Int) * 256 + 0 * 0 ≤ 65536 ∧ (65536 : Int) < 256 * 256 + 1 * 1 := by decide

/-- A 2 by 2 matrix with a lit pixel in the front buffer, before its last slot. -/
def beforeSlot : State :=
  let s := { board 2 2 2 with c.en := true, c.cphase := 1, c.bit := 7, c.fb0 := [(3, 0x0080_8080)] };
  acting s (slotSchedule s)

theorem beforeSlot_inv : Inv beforeSlot where
  geometry := by decide
  count := by decide
  staged := by decide
  row := by decide
  dma := by decide
  rowCursor := by decide
  held := by decide
  words := by
    intro b k hk
    have h4 : 4 ≤ k := hk
    have h3 : k ≠ 3 := by omega
    cases b <;> simp [fbRead, beforeSlot, acting, board, State.resetWith, Consumer.reset, Store.find, h3]
  pcfg := by decide
  ccfg := by decide
  memory := by decide

theorem witness_SlotShowsTheFrontRow :
    Inv beforeSlot ∧ beforeSlot.c.halt = false ∧ beforeSlot.c.cphase = 1 ∧ beforeSlot.c.shFifo = [] ∧
    beforeSlot.c.shLine = [] ∧ beforeSlot.c.shHold = none ∧ p2cAvail beforeSlot = false ∧
    redrawEligible beforeSlot = false ∧ beforeSlot.env.sched = slotSchedule beforeSlot ++ [] :=
  ⟨beforeSlot_inv, by decide, by decide, by decide, by decide, by decide, by decide, by decide, by decide⟩

end Sys2Proof.Tests
end

/-! Proofs of the family `00_scope.md`: a step runs the operation its carrier decodes to (O3), and every step keeps the
machine invariant (O48). The second goes through one rule per state operation (`inv_…`: it keeps `Inv`), one rule per
frame of an operation (sequencing, a host command, a turn of agent `P` or `C`), and one per pseudocode. -/

namespace Sys2Proof.Machine

open Sys2Proof.Config

/-! ## Which act comes next, and what a step makes of it -/

theorem nextAction_cons {s : State} {a : Action} {rest : List Action} (h : s.env.sched = a :: rest) :
    nextAction s = (a, { s with env.sched := rest }) := by
  simp [nextAction, h]

theorem nextAction_nil {s : State} (h : s.env.sched = []) :
    nextAction s = (Config.freeAction s.env.fresh, { s with env.fresh := s.env.fresh + 1 }) := by
  simp [nextAction, h]

/-- A step depends on the state through its next act only. -/
theorem step_congr {s t : State} (h : nextAction s = nextAction t) : step s = step t := by
  simp only [step, fetch, h]

theorem step_of_run {s t : State} {i : Instr} (h : fetch s = .run i t) : step s = exec i t := by
  simp only [step, h]

theorem step_of_done {s : State} {o : Host.Outcome State Fault Refusal} (h : fetch s = .done o) : step s = o := by
  simp only [step, h]

/-- With an act listed, that act is performed and taken from the list. -/
theorem fetch_cons {s : State} {a : Action} {rest : List Action} (h : s.env.sched = a :: rest) :
    fetch s = perform a { s with env.sched := rest } := by
  simp only [fetch, nextAction_cons h]

theorem fetchCommand_ok {w : Word} {i : Instr} (h : decode (.command w) = .ok i) (s : State) :
    fetchCommand w s = .run i s := by
  simp only [fetchCommand, h]

/-- An aligned word write of offset 0 is a write of `P_CMD`. -/
theorem perform_writeCmd (w : Word) (s : State) : perform (.hostP (.write .word 0 w)) s = fetchCommand w s := rfl

/-- Settles O3, one clause for each way an act is found: the first three read the head of the list and decode its
carrier, the last compares the next act of the two states. -/
theorem stepRunsDecodedOperation : Obligations.StepRunsDecodedOperation := by
  refine ⟨fun s rest w i hs hi => ?command, fun s rest hs => ?producer, fun s rest hs => ?consumer, fun s hs => ?free⟩
  case command =>
    apply step_of_run
    rw [fetch_cons hs, perform_writeCmd, fetchCommand_ok hi]
  case producer => exact ⟨decodeProducer s.p.pphase, rfl, step_of_run (fetch_cons hs)⟩
  case consumer => exact ⟨decodeConsumer s.c.cphase, rfl, step_of_run (fetch_cons hs)⟩
  case free =>
    apply step_congr
    rw [nextAction_nil hs, nextAction_cons rfl, ← hs]

/-! ## A property of whatever state an operation comes to -/

/-- Whatever state the operation comes to, at its end, in a wait or at a fatal fault, has the property. -/
inductive Result.Meets (P : State → Prop) : Result → Prop
  | ok {s : State} (h : P s) : Result.Meets P (.ok s)
  | pending {s : State} (h : P s) : Result.Meets P (.pending s)
  | raised {s : State} (h : P s) : Result.Meets P (.raised s)
  | stop (f : Fault) : Result.Meets P (.stop f)

/-- If the outcome is a next state, that state has the property. -/
inductive NextMeets (P : State → Prop) : Host.Outcome State Fault Refusal → Prop
  | next {s : State} (h : P s) : NextMeets P (.next s)
  | fault (f : Fault) : NextMeets P (.fault f)

/-- If an operation is run, it is run in a state that has the property; if not, the outcome leads to one. -/
inductive Fetched.Meets (P : State → Prop) : Fetched → Prop
  | run (i : Instr) {s : State} (h : P s) : Fetched.Meets P (.run i s)
  | done {o : Host.Outcome State Fault Refusal} (h : NextMeets P o) : Fetched.Meets P (.done o)

section Meets

variable {P : State → Prop}

theorem Result.meets_iff (r : Result) :
    r.Meets P ↔ (∀ t, r = .ok t → P t) ∧ (∀ t, r = .pending t → P t) ∧ (∀ t, r = .raised t → P t) := by
  constructor
  · rintro (h | h | h | f) <;> simp_all
  · rintro ⟨hok, hpending, hraised⟩
    cases r with
    | ok s => exact .ok (hok s rfl)
    | pending s => exact .pending (hpending s rfl)
    | raised s => exact .raised (hraised s rfl)
    | stop f => exact .stop f

theorem nextMeets_next (s : State) : NextMeets P (.next s) ↔ P s :=
  ⟨fun | .next h => h, .next⟩

theorem Result.meets_andThen {r : Result} {f : State → Result} (hr : r.Meets P) (hf : ∀ s, P s → (f s).Meets P) :
    (r.andThen f).Meets P := by
  cases hr with
  | ok hs => exact hf _ hs
  | pending hs => exact .pending hs
  | raised hs => exact .raised hs
  | stop f => exact .stop f

theorem Result.nextMeets_outcome {r : Result} {done : State → State} (hr : r.Meets P) (hd : ∀ s, P s → P (done s)) :
    NextMeets P (r.outcome done) := by
  cases hr with
  | ok hs => exact .next (hd _ hs)
  | pending hs => exact .next hs
  | raised hs => exact .next hs
  | stop f => exact .fault f

theorem meets_runEach {op : Nat → State → Result} (hop : ∀ k s, P s → (op k s).Meets P) (l : List Nat) {s : State}
    (hs : P s) : (runEach op l s).Meets P := by
  have parts := fun k s hs => (Result.meets_iff _).mp (hop k s hs)
  exact (Result.meets_iff _).mpr (runEach_keeps (fun k s t hs => (parts k s hs).1 t)
    (fun k s t hs => (parts k s hs).2.1 t) (fun k s t hs => (parts k s hs).2.2 t) l s hs)

end Meets

/-! ## What the legal geometry gives (00_scope.md R6 to R8) -/

/-- `SIZE` is twice `SCAN`, which is in 1..16. -/
theorem size_eq_two_scan {s : State} (h : s.geom.wf = true) :
    s.geom.size = 2 * scan s ∧ 1 ≤ scan s ∧ scan s ≤ 16 := by
  simp only [Geometry.wf, decide_eq_true_eq] at h
  unfold scan
  omega

/-- A framebuffer is `SCAN` rows of `ROWWORDS` words. -/
theorem fbWords_eq_rows {s : State} (h : s.geom.wf = true) : fbWords s = scan s * rowWords s := by
  simp only [fbWords, rowWords, (size_eq_two_scan h).1]
  ring

theorem scan_pos {s : State} (h : s.geom.wf = true) : 0 < scan s := (size_eq_two_scan h).2.1

theorem rowWords_bounds {s : State} (h : s.geom.wf = true) :
    0 < rowWords s ∧ rowWords s ≤ 64 ∧ rowWords s % 2 = 0 := by
  have hsize := size_eq_two_scan h
  unfold rowWords
  omega

theorem fbWords_le {s : State} (h : s.geom.wf = true) : fbWords s ≤ 1024 := by
  have hsize := size_eq_two_scan h
  exact Nat.mul_le_mul (by omega : s.geom.size ≤ 32) (by omega : s.geom.size ≤ 32)

/-- The words of a scan row end inside the framebuffer. -/
theorem row_end_le_fbWords {s : State} (h : s.geom.wf = true) {r : Nat} (hr : r < scan s) :
    r * rowWords s + rowWords s ≤ fbWords s := by
  rw [fbWords_eq_rows h, ← Nat.succ_mul]
  exact Nat.mul_le_mul_right _ hr

/-- The address of a pixel is an even word of its scan row in the upper half, an odd one in the lower (43_bpd.md
R180). -/
theorem pixaddr_eq_row (s : State) (x y : Nat) :
    pixaddr s x y =
      if y < scan s then y * rowWords s + 2 * x else (y - scan s) * rowWords s + (2 * x + 1) := by
  have hrow : ∀ r : Nat, r * s.geom.size * 2 = r * rowWords s := fun r => by
    unfold rowWords
    ring
  simp only [pixaddr, hrow, Nat.add_assoc]

theorem pixaddr_lt_fbWords {s : State} (h : s.geom.wf = true) {x y : Nat} (hx : x < s.geom.size)
    (hy : y < s.geom.size) : pixaddr s x y < fbWords s := by
  have hsize := size_eq_two_scan h
  have hword : 2 * x + 1 < rowWords s := by
    unfold rowWords
    omega
  rw [pixaddr_eq_row]
  split
  next hup =>
    have := row_end_le_fbWords h hup
    omega
  next hlow =>
    have := row_end_le_fbWords h (r := y - scan s) (by omega)
    omega

/-! ## One rule per state operation: it keeps `Inv`

A clause of `Inv` reads only a few fields, so an update of other fields inherits it: `{ h with … }` names the clauses
that need an argument. -/

section Rules

variable {s : State}

theorem inv_nextAction (h : Inv s) : Inv (nextAction s).2 := by
  unfold nextAction
  split
  · exact { h with }
  · exact { h with }

/-! ### Free inputs and the external read ports -/

theorem inv_popNat (h : Inv s) : Inv (popNat s).2 := by
  rw [popNat_state]
  exact { h with }

theorem inv_draw (h : Inv s) (hi : Nat) : Inv (draw hi s).2 := inv_popNat h

theorem inv_choose (h : Inv s) : Inv (choose s).2 := inv_popNat h

theorem inv_freeWord (h : Inv s) : Inv (freeWord s).2 := inv_popNat h

theorem inv_hostByte (h : Inv s) (addr : Word) : Inv (hostByte addr s).2 := by
  unfold hostByte
  split
  · exact h
  · exact inv_popNat h

theorem inv_memRead (h : Inv s) (addr : Word) : Inv (memRead addr s).2 :=
  inv_hostByte (inv_hostByte (inv_hostByte (inv_hostByte h _) _) _) _

theorem inv_bgRead (h : Inv s) (x y : Nat) : Inv (bgRead x y s).2 := by
  unfold bgRead
  split
  · exact h
  · exact inv_freeWord h

@[simp] theorem bgRead_geom (x y : Nat) (s : State) : (bgRead x y s).2.geom = s.geom := by
  unfold bgRead
  split
  · rfl
  · exact freeWord_geom s

/-! ### Fatal faults, acceptance, completion -/

theorem inv_raiseP (h : Inv s) (code : BitVec 8) (info : BitVec 24) : Inv (raiseP code info s) := { h with }

theorem inv_raiseC (h : Inv s) (code : BitVec 8) (info : BitVec 24) : Inv (raiseC code info s) := { h with }

theorem inv_accept (h : Inv s) (opc : BitVec 8) : Inv (accept opc s) := { h with }

theorem inv_complete (h : Inv s) : Inv (complete s) := { h with }

theorem inv_toPhase (h : Inv s) (code : BitVec 4) : Inv (toPhase code s) := { h with }

theorem inv_illegalCommand (h : Inv s) (w : Word) : Inv (illegalCommand w s) := by
  obtain ⟨-, e⟩ | ⟨-, -, e⟩ | ⟨-, e⟩ := illegalCommand_cases w s <;> rw [e]
  · exact h
  · exact inv_raiseP h _ _
  · exact inv_raiseP h _ _

/-! ### Memories -/

theorem inv_setObmRow (h : Inv s) (y : Nat) (row : Word) : Inv (setObmRow y row s) :=
  { h with memory := wf_setObmRow h.memory y row }

theorem inv_writePart (h : Inv s) (k : Nat) (q : Particle) : Inv (writePart k q s) :=
  { h with memory := wf_writePart h.memory k q }

theorem inv_stgWrite (h : Inv s) (k : Nat) (e : Staged) : Inv (stgWrite k e s) :=
  { h with memory := wf_stgWrite h.memory k e }

theorem inv_setHostByte (h : Inv s) (a : Word) (v : Byte) : Inv (setHostByte a v s) :=
  { h with memory := wf_setHostByte h.memory a v }

theorem inv_setBackground (h : Inv s) (x y : BitVec 5) (v : Word) : Inv (setBackground x y v s) :=
  { h with memory := wf_setBackground h.memory x y v }

/-- A write inside a framebuffer puts no word past its end. -/
theorem inv_fbWrite (h : Inv s) (b : Bool) {k : Nat} (hk : k < fbWords s) (v : Word) : Inv (fbWrite b k v s) := by
  have hwords : ∀ c j, fbWords s ≤ j → fbRead (fbWrite b k v s) c j = 0 := fun c j hj => by
    rw [fbRead_fbWrite, if_neg (by omega), h.words c j hj]
  have hmem := wf_fbWrite h.memory b k v
  cases b with
  | false => exact { h with words := hwords, memory := hmem }
  | true => exact { h with words := hwords, memory := hmem }

theorem inv_obmClearAll (h : Inv s) : Inv (obmClearAll s) :=
  List.foldlRecOn _ _ h fun _ ht y _ => inv_setObmRow ht y 0

theorem inv_writeParts (h : Inv s) (k : Nat) (l : List Particle) : Inv (writeParts k l s) := by
  induction l generalizing k s with
  | nil => exact h
  | cons q qs ih => exact ih (inv_writePart h k q) (k + 1)

theorem inv_obmPut (h : Inv s) (b : Bool) (cx cy : Nat) : (obmPut b cx cy s).Meets Inv := by
  obtain ⟨-, e⟩ | ⟨-, e⟩ := obmPut_cases b cx cy s <;> rw [e]
  · exact .ok (inv_setObmRow h _ _)
  · exact .raised (inv_raiseP h _ _)

theorem inv_obmGet (h : Inv s) (cx cy : Nat) {rest : Bool → Result} (hrest : ∀ b, (rest b).Meets Inv) :
    (obmGet cx cy rest s).Meets Inv := by
  obtain ⟨-, e⟩ | ⟨-, e⟩ := obmGet_cases cx cy rest s <;> rw [e]
  · exact hrest _
  · exact .raised (inv_raiseP h _ _)

/-! ### Channels -/

theorem inv_takeConsumed (h : Inv s) (w : Word) : (takeConsumed w s).Meets Inv := by
  obtain ⟨-, e⟩ | ⟨-, e⟩ := takeConsumed_cases w s <;> rw [e]
  · exact .ok { h with }
  · exact .raised { h with }

theorem inv_takeReady (h : Inv s) (w : Word) : (takeReady w s).Meets Inv := by
  obtain ⟨-, e⟩ | ⟨-, e⟩ := takeReady_cases w s <;> rw [e]
  · exact .ok { h with }
  · exact .raised { h with }

theorem inv_sendConsumed (h : Inv s) : (sendConsumed s).Meets Inv := by
  obtain ⟨-, e⟩ | ⟨-, e⟩ := sendConsumed_cases s <;> rw [e]
  · exact .raised (inv_raiseC h _ _)
  · exact .ok { h with }

theorem inv_sendReady (h : Inv s) : Inv (sendReady s) := { h with }

theorem inv_waiting (h : Inv s) : Inv (waiting s) := { h with }

/-! ## One rule per frame of an operation -/

theorem inv_command (h : Inv s) (opc : BitVec 8) {body : State → Result} (hbody : ∀ s, Inv s → (body s).Meets Inv) :
    NextMeets Inv (command opc body s) := by
  obtain ⟨-, e⟩ | ⟨-, -, e⟩ | ⟨-, e⟩ := command_cases opc body s <;> rw [e]
  · exact .next h
  · exact .next (inv_raiseP h _ _)
  · exact Result.nextMeets_outcome (hbody _ (inv_accept h opc)) fun _ => inv_complete

theorem inv_producerStep (h : Inv s) {f : State → Host.Outcome State Fault Refusal} (hf : NextMeets Inv (f s)) :
    NextMeets Inv (producerStep f s) := by
  obtain ⟨-, e⟩ | ⟨-, e⟩ := producerStep_cases f s <;> rw [e]
  · exact .next h
  · exact hf

theorem inv_consumerStep (h : Inv s) {f : State → Host.Outcome State Fault Refusal} (hf : NextMeets Inv (f s)) :
    NextMeets Inv (consumerStep f s) := by
  obtain ⟨-, e⟩ | ⟨-, e⟩ := consumerStep_cases f s <;> rw [e]
  · exact .next h
  · exact hf

/-- A turn that performs a pseudocode and then `done`. -/
theorem inv_producerRuns (h : Inv s) {body : State → Result} {done : State → State} (hbody : (body s).Meets Inv)
    (hdone : ∀ t, Inv t → Inv (done t)) : NextMeets Inv (producerStep (fun s => (body s).outcome done) s) :=
  inv_producerStep h (Result.nextMeets_outcome hbody hdone)

theorem inv_consumerRuns (h : Inv s) {body : State → Result} {done : State → State} (hbody : (body s).Meets Inv)
    (hdone : ∀ t, Inv t → Inv (done t)) : NextMeets Inv (consumerStep (fun s => (body s).outcome done) s) :=
  inv_consumerStep h (Result.nextMeets_outcome hbody hdone)

theorem inv_gated (h : Inv s) (opc : BitVec 8) {body : State → Result} (hbody : (body s).Meets Inv) :
    (gated opc body s).Meets Inv := by
  obtain ⟨-, e⟩ | ⟨-, e⟩ := gated_cases opc body s <;> rw [e]
  · exact .raised (inv_raiseP h _ _)
  · exact hbody

theorem inv_withParticles {rest : State → Result} (hrest : (rest s).Meets Inv) :
    (withParticles s rest).Meets Inv := by
  obtain ⟨-, e⟩ | ⟨-, e⟩ := withParticles_cases s rest <;> rw [e]
  · exact .stop _
  · exact hrest

/-! ## The host commands of the bitmap and the loads -/

theorem inv_bodyObmGet (h : Inv s) : (bodyObmGet s).Meets Inv :=
  inv_obmGet h _ _ fun _ => .ok { h with }

theorem inv_loadPixel (h : Inv s) (base : Word) (k : Nat) : Inv (loadPixel base k s) := by
  have hread := inv_memRead h (base + BitVec.ofNat 32 (4 * k))
  unfold loadPixel
  dsimp only
  split
  · exact inv_setObmRow hread _ _
  · exact hread

theorem inv_bodyPpeLdbg (h : Inv s) : (bodyPpeLdbg s).Meets Inv := by
  unfold bodyPpeLdbg
  split
  · exact .ok (List.foldlRecOn _ _ h fun _ ht k _ => inv_loadPixel ht _ k)
  · exact .raised (inv_raiseP h _ _)

theorem inv_loadTriple (base : Word) (k : Nat) (s : State) (h : Inv s) : (loadTriple base k s).Meets Inv := by
  unfold loadTriple
  extract_lets rx ry rc cx cy
  have hread : Inv rc.2 := inv_memRead (inv_memRead (inv_memRead h _) _) _
  clear_value rc cx cy
  split
  · exact inv_obmPut (inv_writePart hread _ _) _ _ _
  · exact .raised (inv_raiseP hread _ _)

/-- The count is written only after the check against the capacity (41_ppe.md R124). -/
theorem inv_bodyPpeLdpart (h : Inv s) : (bodyPpeLdpart s).Meets Inv := by
  unfold bodyPpeLdpart
  split
  next => exact .raised (inv_raiseP h _ _)
  next hcap =>
    split
    · refine Result.meets_andThen (meets_runEach (inv_loadTriple _) _ h) fun t ht => .ok ?_
      have hcount : (BitVec.ofNat 10 (opCount s)).toNat ≤ capacity := by
        rw [BitVec.toNat_ofNat]
        exact le_trans (Nat.mod_le _ _) (by omega)
      exact { ht with count := hcount }
    · exact .raised (inv_raiseP h _ _)

/-! ## The engine -/

theorem inv_scaleOp (h : Inv s) : Inv (scaleOp s) := { h with }

theorem inv_sortIfEnabled (h : Inv s) : Inv (sortIfEnabled s) := by
  unfold sortIfEnabled
  split
  · refine inv_writeParts ?_ _ _
    exact { h with }
  · exact h

theorem inv_accelOp (h : Inv s) (k : Nat) : Inv (accelOp k s) := by
  have hdraws := inv_draw (inv_draw h s.p.work.jmax) s.p.work.jmax
  refine inv_writePart ?_ _ _
  exact { hdraws with }

theorem inv_accelAll (h : Inv s) : Inv (accelAll s) :=
  List.foldlRecOn _ _ h fun _ ht k _ => inv_accelOp ht k

theorem inv_commitMove (h : Inv s) (k : Nat) (q : Particle) (m : Motion) : (commitMove k q m s).Meets Inv := by
  refine Result.meets_andThen (inv_obmPut h _ _ _) fun _ hcleared =>
    Result.meets_andThen (inv_obmPut hcleared _ _ _) fun _ hset => .ok (inv_writePart ?_ _ _)
  exact { hset with }

theorem inv_resolveHit (h : Inv s) (k : Nat) (q : Particle) (delta : Nat) (m : Motion) :
    (resolveHit k q delta m s).Meets Inv := by
  unfold resolveHit
  dsimp only
  split
  · exact inv_commitMove h _ _ _
  · split
    · exact inv_commitMove h _ _ _
    · exact inv_obmGet h _ _ fun _ => inv_obmGet h _ _ fun _ => inv_commitMove h _ _ _

theorem inv_moveOp (k : Nat) (s : State) (h : Inv s) : (moveOp k s).Meets Inv := by
  unfold moveOp
  extract_lets q m oldidx newidx delta w1 p1 s1
  have h1 : Inv s1 := { h with }
  split
  · exact inv_commitMove h1 _ _ _
  · refine inv_obmGet h1 _ _ fun hit => ?_
    cases hit with
    | false => exact inv_commitMove h1 _ _ _
    | true => exact inv_resolveHit h1 _ _ _ _

theorem inv_iterate (h : Inv s) : (iterate s).Meets Inv :=
  inv_withParticles (meets_runEach inv_moveOp _ (inv_accelAll (inv_sortIfEnabled (inv_scaleOp h))))

/-- The staging count is a table count (41_ppe.md R139). -/
theorem inv_snapshot (h : Inv s) : (snapshot s).Meets Inv := by
  apply inv_withParticles
  have hsnap : Inv ((List.range s.p.count.toNat).foldl (fun t k => snapEntry k t) s) :=
    List.foldlRecOn _ _ h fun _ ht k _ => inv_stgWrite ht k _
  exact .ok { hsnap with staged := hsnap.count }

/-! ## The producer half of the handshake, and the tick -/

theorem inv_sendOrWait (h : Inv s) : (sendOrWait s).Meets Inv := by
  unfold sendOrWait
  split
  · exact .pending (inv_waiting h)
  · exact .ok (inv_sendReady h)

theorem inv_waitConsumed (h : Inv s) : (waitConsumed s).Meets Inv := by
  unfold waitConsumed
  split
  · split
    · exact inv_takeConsumed h _
    · exact .pending (inv_waiting h)
  · exact .ok { h with }

theorem inv_tickAfterWait (h : Inv s) : (tickAfterWait s).Meets Inv := .pending { h with }

theorem inv_bodyPpeIter (h : Inv s) : (bodyPpeIter s).Meets Inv := inv_gated h _ (inv_iterate h)

theorem inv_bodyPpeSnap (h : Inv s) : (bodyPpeSnap s).Meets Inv := inv_gated h _ (inv_snapshot h)

theorem inv_bodyFshSendrdy (h : Inv s) : (bodyFshSendrdy s).Meets Inv := inv_gated h _ (inv_sendOrWait h)

theorem inv_snapAndSend (h : Inv s) : (snapAndSend s).Meets Inv :=
  Result.meets_andThen (inv_bodyPpeSnap h) fun _ => inv_bodyFshSendrdy

theorem inv_bodyPpeTick (h : Inv s) : (bodyPpeTick s).Meets Inv := by
  unfold bodyPpeTick
  split
  · exact Result.meets_andThen (inv_waitConsumed h) fun _ => inv_tickAfterWait
  · exact Result.meets_andThen (inv_bodyPpeIter { h with }) fun _ ht => inv_snapAndSend { ht with }

/-! ## The producer micro-operations -/

/-- Whatever command is latched, what is left of it under `P.EXEC` is one of the pseudocodes above. -/
theorem inv_inProgress (h : Inv s) : (inProgress s).Meets Inv := by
  unfold inProgress
  split
  next => exact inv_obmPut h _ _ _
  next => exact inv_obmPut h _ _ _
  next => exact inv_bodyObmGet h
  next => exact .ok (inv_obmClearAll h)
  next => exact inv_bodyPpeLdbg h
  next => exact inv_bodyPpeLdpart h
  next => exact .ok (inv_obmClearAll h)
  next => exact inv_bodyPpeIter h
  next => exact inv_bodyPpeSnap h
  next => exact inv_snapAndSend h
  next => exact inv_bodyFshSendrdy h
  next => exact inv_waitConsumed h
  next => exact .ok h
  next => exact .raised (inv_raiseP h _ _)

theorem inv_waitEdge (h : Inv s) : (waitEdge s).Meets Inv := by
  have hchoose := inv_choose h
  unfold waitEdge
  split
  · refine Result.meets_andThen (inv_takeConsumed h _) fun t ht => ?_
    split
    · exact inv_tickAfterWait ht
    · exact .ok ht
  · split
    · exact .ok { hchoose with }
    · exact .pending hchoose

theorem inv_waitStep (h : Inv s) : (waitStep s).Meets Inv := by
  unfold waitStep
  split
  · exact inv_waitEdge h
  · split
    · exact inv_sendOrWait h
    · exact inv_waitConsumed h

theorem inv_endOfMotion (h : Inv s) : Inv (endOfMotion s) := by
  unfold endOfMotion
  split
  · exact { h with }
  · exact inv_complete h

theorem inv_toMotion (h : Inv s) : Inv (toMotion s) := by
  unfold toMotion
  split
  · exact inv_endOfMotion h
  · exact { h with }

theorem inv_toVelocity (h : Inv s) : Inv (toVelocity s) := by
  unfold toVelocity
  split
  · exact inv_endOfMotion h
  · exact { h with }

theorem inv_afterAccel (h : Inv s) : Inv (afterAccel s) := by
  unfold afterAccel
  split
  · exact { h with }
  · exact inv_toMotion h

theorem inv_afterMove (h : Inv s) : Inv (afterMove s) := by
  unfold afterMove
  split
  · exact { h with }
  · exact inv_endOfMotion h

theorem inv_execPScale (h : Inv s) : NextMeets Inv (execPScale s) :=
  inv_producerStep h (.next { h with })

theorem inv_execPSort (h : Inv s) : NextMeets Inv (execPSort s) :=
  inv_producerStep h (Result.nextMeets_outcome (inv_withParticles (.ok (inv_sortIfEnabled h))) fun _ => inv_toVelocity)

theorem inv_execPAccel (h : Inv s) : NextMeets Inv (execPAccel s) := by
  refine inv_producerStep h (Result.nextMeets_outcome (inv_withParticles (.ok ?_)) fun _ => inv_afterAccel)
  split
  · exact inv_accelOp h _
  · exact h

theorem inv_execPMove (h : Inv s) : NextMeets Inv (execPMove s) := by
  refine inv_producerStep h (Result.nextMeets_outcome (inv_withParticles ?_) fun _ => inv_afterMove)
  split
  · exact inv_moveOp _ _ h
  · exact .ok h

theorem inv_execTokConsumed (h : Inv s) : NextMeets Inv (execTokConsumed s) := by
  refine inv_producerStep h ?_
  split
  · exact Result.nextMeets_outcome (inv_takeConsumed h _) fun _ => id
  · exact .next h

/-! ## The redraw slices -/

theorem inv_sliceIdleBody (h : Inv s) : (sliceIdleBody s).Meets Inv := by
  have hfirst : 0 < s.geom.size := by
    have := size_eq_two_scan h.geometry
    omega
  exact .ok { h with rowCursor := fun _ => hfirst }

theorem inv_clearPixel (h : Inv s) {x y : Nat} (hx : x < s.geom.size) (hy : y < s.geom.size) :
    Inv (clearPixel y x s) := by
  have hread := inv_bgRead h x y
  exact inv_fbWrite hread _ (pixaddr_lt_fbWords hread.geometry (by simpa using hx) (by simpa using hy)) _

@[simp] theorem clearPixel_geom (y x : Nat) (s : State) : (clearPixel y x s).geom = s.geom := by
  simp [clearPixel]

/-- A CLEAR slice draws one row of the matrix; its cursor stays below `SIZE` as long as it goes on clearing. -/
theorem inv_sliceClearBody (h : Inv s) : (sliceClearBody s).Meets Inv := by
  unfold sliceClearBody
  dsimp only
  split
  next hy =>
    obtain ⟨hrow, hgeom⟩ : _ ∧ _ := List.foldlRecOn (motive := fun t => Inv t ∧ t.geom = s.geom)
      (List.range s.geom.size) (fun t x => clearPixel s.c.rowCursor.toNat x t) ⟨h, rfl⟩ fun t ht x hx =>
        ⟨inv_clearPixel ht.1 (ht.2 ▸ List.mem_range.mp hx) (ht.2 ▸ hy), (clearPixel_geom _ _ _).trans ht.2⟩
    refine .ok { hrow with rowCursor := fun hclear => ?_ }
    have hmore : s.c.rowCursor.toNat + 1 ≠ s.geom.size := fun hlast => by
      rw [if_pos hlast] at hclear
      cases hclear
    rw [hgeom]
    exact lt_of_le_of_lt (Nat.mod_le _ _) (Nat.lt_of_le_of_ne hy hmore)
  next => exact .stop _

/-- A staged particle is drawn only inside the matrix (43_bpd.md R193). -/
theorem inv_drawStaged (k : Nat) (s : State) (h : Inv s) : (drawStaged k s).Meets Inv := by
  unfold drawStaged
  dsimp only
  split
  · split
    next => exact .raised (inv_raiseC h _ _)
    next hin =>
      push Not at hin
      exact .ok (inv_fbWrite h _ (pixaddr_lt_fbWords h.geometry hin.1 hin.2) _)
  · exact .stop _

theorem inv_redrawComplete (h : Inv s) : Inv (redrawComplete s) :=
  { h with rowCursor := fun hclear => absurd hclear (by simp) }

theorem inv_sliceParticlesBody (h : Inv s) : (sliceParticlesBody s).Meets Inv := by
  refine Result.meets_andThen (meets_runEach inv_drawStaged _ h) fun t ht => .ok ?_
  split
  · exact inv_redrawComplete { ht with }
  · exact { ht with }

theorem inv_sliceBody (h : Inv s) : (sliceBody s).Meets Inv := by
  unfold sliceBody
  split
  next => exact inv_sliceClearBody h
  next => exact inv_sliceParticlesBody h
  next => exact inv_sliceIdleBody h
  next => exact .raised (inv_raiseC h _ _)

/-! ## The consumer micro-operations -/

theorem inv_pollReady (h : Inv s) {rest : Bool → State → Result} (hrest : ∀ b s, Inv s → (rest b s).Meets Inv) :
    (pollReady rest s).Meets Inv := by
  unfold pollReady
  split
  · exact Result.meets_andThen (inv_takeReady h _) (hrest true)
  · exact hrest false s h

theorem inv_flipBody (h : Inv s) : (flipBody s).Meets Inv :=
  Result.meets_andThen (inv_sendConsumed { h with }) fun _ ht => .ok { ht with }

/-- A plane starts with the shift counter at 0: an upper pixel is due. -/
theorem inv_execCSetbit (h : Inv s) : NextMeets Inv (execCSetbit s) :=
  inv_consumerStep h (.next { h with held := fun _ hodd => by simp at hodd })

/-- A transfer starts at a scan row and covers exactly that row. -/
theorem inv_execCDmastart (h : Inv s) : NextMeets Inv (execCDmastart s) := by
  have hrow := row_end_le_fbWords h.geometry h.row
  have hwords := fbWords_le h.geometry
  have hbounds := rowWords_bounds h.geometry
  have hidx : (BitVec.ofNat 11 (s.c.row.toNat * rowWords s)).toNat = s.c.row.toNat * rowWords s :=
    Nat.mod_eq_of_lt (by omega)
  have hrem : (BitVec.ofNat 7 (rowWords s)).toNat = rowWords s := Nat.mod_eq_of_lt (by omega)
  refine inv_consumerStep h (.next { h with dma := fun _ => ?_ })
  simp only [toPhase_c_dmaIdx, toPhase_c_dmaRem, hidx, hrem]
  exact ⟨hbounds.1, hrow⟩

theorem inv_execCPoll (h : Inv s) : NextMeets Inv (execCPoll s) := by
  refine inv_consumerStep h (Result.nextMeets_outcome (inv_pollReady h fun got t ht => ?_) fun _ ht => inv_toPhase ht _)
  cases got with
  | false => exact .ok ht
  | true => exact .ok { ht with }

theorem inv_execCWaitdma (h : Inv s) : NextMeets Inv (execCWaitdma s) := by
  refine inv_consumerStep h (.next ?_)
  split
  · exact h
  · exact inv_toPhase h _

theorem inv_execCDummy2 (h : Inv s) : NextMeets Inv (execCDummy2 s) :=
  inv_consumerStep h (.next { h with })

theorem inv_execCRedraw (h : Inv s) : NextMeets Inv (execCRedraw s) := by
  have hchoose := inv_choose h
  refine inv_consumerStep h ?_
  split
  · split
    · exact Result.nextMeets_outcome (inv_sliceBody hchoose) fun _ => id
    · exact .next (inv_toPhase hchoose _)
  · exact .next (inv_toPhase h _)

theorem inv_execCWaitstrobe (h : Inv s) : NextMeets Inv (execCWaitstrobe s) := by
  refine inv_consumerStep h (.next ?_)
  split
  · exact inv_toPhase h _
  · exact h

theorem inv_execCStrobe (h : Inv s) : NextMeets Inv (execCStrobe s) :=
  inv_consumerStep h (.next { h with })

/-- The row goes up only while the next one is below `SCAN` (43_bpd.md R197). -/
theorem inv_execCNext (h : Inv s) : NextMeets Inv (execCNext s) := by
  refine inv_consumerStep h (.next ?_)
  split
  · exact { h with }
  · split
    next hmore =>
      refine { h with row := lt_of_le_of_lt ?_ hmore }
      exact Nat.mod_le _ _
    next => exact inv_toPhase h _

theorem inv_execCFlip (h : Inv s) : NextMeets Inv (execCFlip s) := by
  refine inv_consumerStep h (Result.nextMeets_outcome ?boundary fun t ht => ?restart)
  case boundary =>
    split
    · exact inv_flipBody h
    · exact .ok h
  case restart => exact { ht with row := scan_pos ht.geometry }

theorem inv_execFshPollrdy (h : Inv s) : NextMeets Inv (execFshPollrdy s) :=
  inv_consumerStep h (Result.nextMeets_outcome (inv_pollReady h fun _ _ => .ok) fun _ => id)

theorem inv_execTokReady (h : Inv s) : NextMeets Inv (execTokReady s) := by
  refine inv_consumerStep h ?_
  split
  · exact Result.nextMeets_outcome (inv_takeReady h _) fun _ ht => { ht with }
  · exact .next h

/-! ## Every operation -/

theorem inv_exec (i : Instr) (h : Inv s) : NextMeets Inv (exec i s) := by
  cases i with
  | nop => exact inv_command h _ fun _ => .ok
  | obmSet => exact inv_command h _ fun _ ht => inv_obmPut ht _ _ _
  | obmClr => exact inv_command h _ fun _ ht => inv_obmPut ht _ _ _
  | obmGet => exact inv_command h _ fun _ => inv_bodyObmGet
  | obmClrall => exact inv_command h _ fun _ ht => .ok (inv_obmClearAll ht)
  | ppeLdbg => exact inv_command h _ fun _ => inv_bodyPpeLdbg
  | ppeLdpart => exact inv_command h _ fun _ => inv_bodyPpeLdpart
  | ppeClrall => exact inv_command h _ fun _ ht => .ok (inv_obmClearAll ht)
  | ppeIter => exact inv_command h _ fun _ => inv_bodyPpeIter
  | ppeSnap => exact inv_command h _ fun _ => inv_bodyPpeSnap
  | ppeTick => exact inv_command h _ fun _ => inv_bodyPpeTick
  | fshSendrdy => exact inv_command h _ fun _ => inv_bodyFshSendrdy
  | fshWaitcons => exact inv_command h _ fun _ => inv_waitConsumed
  | cOff => exact inv_consumerStep h (.next h)
  | cSetbit => exact inv_execCSetbit h
  | cDmastart => exact inv_execCDmastart h
  | cPoll => exact inv_execCPoll h
  | cWaitdma => exact inv_execCWaitdma h
  | cDummy2 => exact inv_execCDummy2 h
  | cRedraw => exact inv_execCRedraw h
  | cWaitstrobe => exact inv_execCWaitstrobe h
  | cStrobe => exact inv_execCStrobe h
  | cNext => exact inv_execCNext h
  | cFlip => exact inv_execCFlip h
  | cHalted => exact inv_consumerStep h (.next h)
  | pIdle => exact inv_producerStep h (.next h)
  | pScale => exact inv_execPScale h
  | pSort => exact inv_execPSort h
  | pAccel => exact inv_execPAccel h
  | pMove => exact inv_execPMove h
  | pExec => exact inv_producerRuns h (inv_inProgress h) fun _ => inv_complete
  | pWait => exact inv_producerRuns h (inv_waitStep h) fun _ => inv_complete
  | pHalted => exact inv_producerStep h (.next h)
  | sliceIdle => exact inv_consumerRuns h (inv_sliceIdleBody h) fun _ => id
  | sliceClear => exact inv_consumerRuns h (inv_sliceClearBody h) fun _ => id
  | sliceParticles => exact inv_consumerRuns h (inv_sliceParticlesBody h) fun _ => id
  | fshPollrdy => exact inv_execFshPollrdy h
  | fshSendcons => exact inv_consumerRuns h (inv_sendConsumed h) fun _ => id
  | bpdSlice => exact inv_consumerRuns h (inv_sliceBody h) fun _ => id
  | tokReady => exact inv_execTokReady h
  | tokConsumed => exact inv_execTokConsumed h

/-! ## The register ports -/

theorem inv_windowRead (h : Inv s) (image : Particle → Word) : Inv (windowRead image s).2 := by
  unfold windowRead
  split
  · exact h
  · exact inv_freeWord h

/-- Only the three registers of the read-back window draw a free word. -/
theorem inv_pPortRead (h : Inv s) (offset : Word) : Inv (pPortRead offset s).2 := by
  unfold pPortRead
  split
  case h_12 | h_13 | h_14 => exact inv_windowRead h _
  all_goals exact h

theorem inv_pAccessRead (h : Inv s) (size : AccessSize) (offset : Word) : Inv (pAccessRead size offset s) := by
  have hread : Inv (if accessDefined size offset then pPortRead offset s else freeWord s).2 := by
    split
    · exact inv_pPortRead h offset
    · exact inv_freeWord h
  exact { hread with }

theorem inv_cAccessRead (h : Inv s) (size : AccessSize) (offset : Word) : Inv (cAccessRead size offset s) := by
  have hread : Inv (if accessDefined size offset then (cPortRead offset s, s) else freeWord s).2 := by
    split
    · exact h
    · exact inv_freeWord h
  exact { hread with }

/-- A masked word has none of the bits outside the mask. -/
theorem and_mask_and_not (w mask : Word) : w &&& mask &&& ~~~mask = 0 := by
  rw [BitVec.and_assoc]
  simp

theorem inv_pPortWrite (h : Inv s) (offset value : Word) : Inv (pPortWrite offset value s) := by
  unfold pPortWrite
  split
  next => exact { h with }
  next => exact { h with }
  next => exact { h with }
  next =>
    split
    · exact { h with }
    · exact h
  next =>
    split
    · exact h
    · exact { h with pcfg := and_mask_and_not value pCfgMask }
  next =>
    split
    · exact h
    · exact { h with }
  next => exact { h with }
  next => exact h

theorem inv_enableBpd (h : Inv s) : Inv (enableBpd s) := by
  unfold enableBpd
  split
  · exact { h with row := scan_pos h.geometry }
  · exact inv_raiseC h _ _

theorem inv_cPortWrite (h : Inv s) (offset value : Word) : Inv (cPortWrite offset value s) := by
  unfold cPortWrite
  split
  next =>
    split
    · exact inv_enableBpd h
    · exact h
  next =>
    split
    · exact h
    · exact { h with ccfg := and_mask_and_not value cCfgMask }
  next =>
    split
    · exact h
    · exact { h with }
  next => exact h

theorem inv_pAccessWrite (h : Inv s) (size : AccessSize) (offset value : Word) :
    Inv (pAccessWrite size offset value s) := by
  unfold pAccessWrite
  split
  · exact inv_pPortWrite h offset value
  · exact h

theorem inv_cAccess (h : Inv s) (a : BusAccess) : Inv (cAccess a s) := by
  cases a with
  | read size offset => exact inv_cAccessRead h size offset
  | write size offset value =>
    simp only [cAccess, cAccessWrite]
    split
    · exact inv_cPortWrite h offset value
    · exact h

/-! ## The helper agents, the synchronisers and reset -/

/-- One word moved: the index goes up as the remainder goes down, and the channel is busy until nothing remains. -/
theorem inv_dmaStep (h : Inv s) : NextMeets Inv (dmaStep s) := by
  have hwords := fbWords_le h.geometry
  unfold dmaStep
  split
  next => exact .next h
  next hrunning =>
    obtain ⟨-, hbusy⟩ : s.c.halt = false ∧ s.c.dmaBusy = true := by simpa using hrunning
    obtain ⟨hrem, hend⟩ := h.dma hbusy
    split
    next =>
      have hrem' : (s.c.dmaRem - 1).toNat = s.c.dmaRem.toNat - 1 := by bv_omega
      have hidx' : (s.c.dmaIdx + 1).toNat = s.c.dmaIdx.toNat + 1 := by bv_omega
      refine .next { h with dma := fun hmore => ?_ }
      have hpos : (s.c.dmaRem - 1).toNat ≠ 0 := fun hzero =>
        (of_decide_eq_true hmore) (BitVec.eq_of_toNat_eq hzero)
      change 0 < (s.c.dmaRem - 1).toNat ∧ (s.c.dmaIdx + 1).toNat + (s.c.dmaRem - 1).toNat ≤ fbWords s
      omega
    next => exact .fault _

/-- A row has an even number of words, so the pixels of a row alternate between held and paired (43_bpd.md R200). -/
theorem inv_shiftWord (h : Inv s) (w : Word) : NextMeets Inv (shiftWord w s) := by
  have hbounds := rowWords_bounds h.geometry
  have hcount : (s.c.shCount + 1).toNat = (s.c.shCount.toNat + 1) % 128 := BitVec.toNat_add _ _
  unfold shiftWord
  split
  next hdummy =>
    refine .next { h with held := fun hlt hodd => absurd hodd ?_ }
    change (s.c.shCount + 1).toNat < rowWords s at hlt
    change ¬ (s.c.shCount + 1).toNat % 2 = 1
    omega
  next hpixel =>
    split
    next => exact .next { h with held := fun _ _ => rfl }
    next hlower =>
      split
      next =>
        refine .next { h with held := fun _ hodd => absurd hodd ?_ }
        change ¬ (s.c.shCount + 1).toNat % 2 = 1
        omega
      next => exact .fault _

theorem inv_shStep (h : Inv s) : NextMeets Inv (shStep s) := by
  unfold shStep
  split
  · exact .next h
  · split
    · exact .next h
    · refine inv_shiftWord ?_ _
      exact { h with }

theorem inv_rsStep (h : Inv s) : Inv (rsStep s) := by
  unfold rsStep
  split
  · exact h
  · exact { h with }

theorem inv_syncPStep (h : Inv s) : Inv (syncPStep s) := { h with }

theorem inv_syncCStep (h : Inv s) : Inv (syncCStep s) := { h with }

/-- Reset establishes every clause about the two domains; the geometry and the environment are as they were. -/
theorem inv_resetStep (h : Inv s) : Inv (resetStep s) where
  geometry := h.geometry
  count := Nat.zero_le _
  staged := Nat.zero_le _
  row := scan_pos h.geometry
  dma := fun hbusy => by cases hbusy
  rowCursor := fun hclear => absurd hclear (show ¬ (0 : BitVec 2) = 1 by decide)
  held := fun _ hodd => by cases hodd
  words := fun b _ _ => by cases b <;> rfl
  pcfg := show Producer.reset.cfg &&& ~~~pCfgMask = 0 by decide
  ccfg := show Consumer.reset.cfg &&& ~~~cCfgMask = 0 by decide
  memory := by
    obtain ⟨-, -, -, -, -, hhost, hbackground⟩ := (memory_wf_iff s).mp h.memory
    exact (memory_wf_iff _).mpr ⟨rfl, rfl, rfl, rfl, rfl, hhost, hbackground⟩

/-! ## Every act -/

theorem inv_fetchCommand (h : Inv s) (w : Word) : (fetchCommand w s).Meets Inv := by
  unfold fetchCommand
  split
  · exact .run _ h
  · exact .done (.next (inv_illegalCommand h w))

theorem inv_perform (a : Action) (h : Inv s) : (perform a s).Meets Inv := by
  cases a with
  | hostP access =>
    cases access with
    | read size offset => exact .done (.next (inv_pAccessRead h size offset))
    | write size offset value =>
      simp only [perform, fetchPAccess]
      split
      · exact inv_fetchCommand h value
      · exact .done (.next (inv_pAccessWrite h size offset value))
  | hostC access => exact .done (.next (inv_cAccess h access))
  | hostMem address value => exact .done (.next (inv_setHostByte h address value))
  | background x y value => exact .done (.next (inv_setBackground h x y value))
  | reset => exact .done (.next (inv_resetStep h))
  | agentP => exact .run _ h
  | agentC => exact .run _ h
  | agentDma => exact .done (inv_dmaStep h)
  | agentSh => exact .done (inv_shStep h)
  | agentRs => exact .done (.next (inv_rsStep h))
  | syncP => exact .done (.next (inv_syncPStep h))
  | syncC => exact .done (.next (inv_syncCStep h))

theorem inv_step (h : Inv s) : NextMeets Inv (step s) := by
  have hfetch : (fetch s).Meets Inv := inv_perform _ (inv_nextAction h)
  cases e : fetch s with
  | run i t =>
    rw [step_of_run e]
    cases e ▸ hfetch with
    | run _ ht => exact inv_exec i ht
  | done o =>
    rw [step_of_done e]
    cases e ▸ hfetch with
    | done ho => exact ho

end Rules

/-- Settles O48: the next act keeps the invariant (`inv_perform`), and so does the operation it runs (`inv_exec`). -/
theorem stepKeepsInvariant : Obligations.StepKeepsInvariant := by
  intro s t h ht
  exact (nextMeets_next t).mp (ht ▸ inv_step h)

end Sys2Proof.Machine

/-! Proofs of the family `10_state.md`: the register ports and reset (O44 to O47, O49), the frame of each domain and of
every step (O54 to O56), and the refinement of `PPE.ITER` by the micro-operations (O32). -/

namespace Sys2Proof.Machine

open Sys2Proof.Config

/-! ## Port accesses -/

section Ports

variable {s : State} {rest : List Action} {size : AccessSize} {off v : Word}

theorem accessDefined_iff (size : AccessSize) (off : Word) :
    accessDefined size off = true ↔ size = .word ∧ off.extractLsb' 0 2 = 0 := by
  simp [accessDefined, aligned]

/-- An access that is narrower than a word or misaligned is not a defined one (20_memory.md R65). -/
theorem accessDefined_eq_false (h : size ≠ .word ∨ off.extractLsb' 0 2 ≠ 0) : accessDefined size off = false := by
  rw [← Bool.not_eq_true, accessDefined_iff]
  tauto

theorem step_hostP_read (h : s.env.sched = .hostP (.read size off) :: rest) :
    step s = .next (pAccessRead size off { s with env.sched := rest }) :=
  step_of_done (fetch_cons h)

theorem step_hostC_read (h : s.env.sched = .hostC (.read size off) :: rest) :
    step s = .next (cAccessRead size off { s with env.sched := rest }) :=
  step_of_done (fetch_cons h)

theorem step_hostC_write (h : s.env.sched = .hostC (.write size off v) :: rest) :
    step s = .next (cAccessWrite size off v { s with env.sched := rest }) :=
  step_of_done (fetch_cons h)

/-- A write of the P port is a register write unless it is a defined write of `P_CMD`. -/
theorem step_hostP_write (h : s.env.sched = .hostP (.write size off v) :: rest)
    (hcmd : accessDefined size off = false ∨ off ≠ 0) :
    step s = .next (pAccessWrite size off v { s with env.sched := rest }) := by
  apply step_of_done
  rw [fetch_cons h]
  have hcond : ¬ (accessDefined size off && off == 0) = true := by
    rw [Bool.and_eq_true, beq_iff_eq, not_and_or, Bool.not_eq_true]
    exact hcmd
  exact if_neg hcond

theorem pAccessWrite_undefined (h : accessDefined size off = false) (v : Word) (s : State) :
    pAccessWrite size off v s = s := by
  simp [pAccessWrite, h]

theorem cAccessWrite_undefined (h : accessDefined size off = false) (v : Word) (s : State) :
    cAccessWrite size off v s = s := by
  simp [cAccessWrite, h]

/-- An offset with no writable register ignores a write (10_state.md R56). -/
theorem pPortWrite_ignored (h : off ∉ ([0x00, 0x04, 0x08, 0x0C, 0x14, 0x18, 0x24, 0x2C] : List Word)) (v : Word)
    (s : State) : pPortWrite off v s = s := by
  unfold pPortWrite
  split
  case h_8 => rfl
  all_goals exact absurd h (by decide)

theorem cPortWrite_ignored (h : off ∉ ([0x00, 0x08, 0x0C] : List Word)) (v : Word) (s : State) :
    cPortWrite off v s = s := by
  unfold cPortWrite
  split
  case h_4 => rfl
  all_goals exact absurd h (by decide)

theorem pAccessWrite_ignored (h : off ∉ ([0x00, 0x04, 0x08, 0x0C, 0x14, 0x18, 0x24, 0x2C] : List Word)) (v : Word)
    (s : State) : pAccessWrite size off v s = s := by
  unfold pAccessWrite
  split
  · exact pPortWrite_ignored h v s
  · rfl

theorem cAccessWrite_ignored (h : off ∉ ([0x00, 0x08, 0x0C] : List Word)) (v : Word) (s : State) :
    cAccessWrite size off v s = s := by
  unfold cAccessWrite
  split
  · exact cPortWrite_ignored h v s
  · rfl

/-- `P_STATUS` bit 3 is write-one-to-clear (10_state.md R24). -/
theorem pPortWrite_status (v : Word) (s : State) :
    pPortWrite 0x14 v s = { s with p.warnTimeout := s.p.warnTimeout && !v.getLsbD 3 } := by
  change (if v.getLsbD 3 then { s with p.warnTimeout := false } else s) = _
  cases v.getLsbD 3 <;> simp

theorem pPortWrite_cfg (v : Word) (s : State) :
    pPortWrite 0x18 v s = if s.p.busy then s else { s with p.cfg := v &&& 0x0001_FFFF } := rfl

theorem pPortWrite_timeout (v : Word) (s : State) :
    pPortWrite 0x24 v s = if s.p.busy then s else { s with p.timeout := v } := rfl

theorem cPortWrite_ctrl (v : Word) (s : State) :
    cPortWrite 0x00 v s = if v.getLsbD 0 && !s.c.en && !s.c.halt then enableBpd s else s := rfl

theorem cPortWrite_cfg (v : Word) (s : State) :
    cPortWrite 0x08 v s = if s.c.en then s else { s with c.cfg := v &&& 0x03FF_007F } := rfl

theorem cPortWrite_oeUnit (v : Word) (s : State) :
    cPortWrite 0x0C v s = if s.c.en then s else { s with c.oeUnit := v.extractLsb' 0 16 } := rfl

end Ports

/-- Settles O44: each clause is the step of a register write (`step_hostP_write`) at one offset of the map. -/
theorem producerPortWrites : Obligations.ProducerPortWrites := by
  intro s rest size off v h
  have hstep := step_hostP_write h
  refine ⟨?arg0, ?arg1, ?arg2, ?status, ?cfg, ?timeout, ?partIdx, ?busy, ?ignored, ?undefined⟩
  case arg0 | arg1 | arg2 | partIdx =>
    rintro rfl rfl
    exact hstep (.inr (by decide))
  case status =>
    rintro rfl rfl
    rw [hstep (.inr (by decide))]
    exact congrArg _ (pPortWrite_status v _)
  case cfg =>
    rintro rfl rfl hbusy
    rw [hstep (.inr (by decide))]
    exact congrArg _ ((pPortWrite_cfg v _).trans (if_neg (by simp [hbusy])))
  case timeout =>
    rintro rfl rfl hbusy
    rw [hstep (.inr (by decide))]
    exact congrArg _ ((pPortWrite_timeout v _).trans (if_neg (by simp [hbusy])))
  case busy =>
    rintro rfl (rfl | rfl) hbusy
    · rw [hstep (.inr (by decide))]
      exact congrArg _ ((pPortWrite_cfg v _).trans (if_pos hbusy))
    · rw [hstep (.inr (by decide))]
      exact congrArg _ ((pPortWrite_timeout v _).trans (if_pos hbusy))
  case ignored =>
    intro hoff
    rw [hstep (.inr fun hzero => hoff (by simp [hzero])), pAccessWrite_ignored hoff]
  case undefined =>
    intro hdef
    have hdef := accessDefined_eq_false hdef
    rw [hstep (.inl hdef), pAccessWrite_undefined hdef]

/-- Settles O46: each clause is the step of a register write (`step_hostC_write`) at one offset of the map. -/
theorem consumerPortWritesAndEnable : Obligations.ConsumerPortWritesAndEnable := by
  intro s rest size off v h depth legal
  rw [step_hostC_write h]
  refine ⟨?enable, ?ctrlIgnored, ?cfg, ?oeUnit, ?enabled, ?ignored, ?undefined⟩
  case enable =>
    rintro rfl rfl hbit hen hhalt
    have hctrl : cAccessWrite .word 0x00 v { s with env.sched := rest } = enableBpd { s with env.sched := rest } :=
      (cPortWrite_ctrl v _).trans (if_pos (by simp [hbit, hen, hhalt]))
    have hlegal : cfgLegal { s with env.sched := rest } = true ↔ legal := decide_eq_true_iff
    rw [hctrl]
    exact ⟨fun hl => congrArg _ (if_pos (hlegal.mpr hl)), fun hl => congrArg _ (if_neg (hlegal.not.mpr hl))⟩
  case ctrlIgnored =>
    rintro rfl rfl hno
    refine congrArg _ ((cPortWrite_ctrl v _).trans (if_neg ?_))
    generalize v.getLsbD 0 = bit at hno ⊢
    rcases hno with hno | hno | hno <;> simp [hno]
  case cfg =>
    rintro rfl rfl hen
    exact congrArg _ ((cPortWrite_cfg v _).trans (if_neg (by simp [hen])))
  case oeUnit =>
    rintro rfl rfl hen
    exact congrArg _ ((cPortWrite_oeUnit v _).trans (if_neg (by simp [hen])))
  case enabled =>
    rintro rfl (rfl | rfl) hen
    · exact congrArg _ ((cPortWrite_cfg v _).trans (if_pos hen))
    · exact congrArg _ ((cPortWrite_oeUnit v _).trans (if_pos hen))
  case ignored => exact fun hoff => congrArg _ (cAccessWrite_ignored hoff v _)
  case undefined => exact fun hdef => congrArg _ (cAccessWrite_undefined (accessDefined_eq_false hdef) v _)

/-! ## Reads of the ports -/

section Reads

variable {off v : Word}

theorem accessDefined_word (h : off.extractLsb' 0 2 = 0) : accessDefined .word off = true :=
  (accessDefined_iff _ _).mpr ⟨rfl, h⟩

/-- A defined read of the P port returns what the map gives. -/
theorem pAccessRead_defined {s : State} {size : AccessSize} (h : accessDefined size off = true)
    (hread : pPortRead off s = (v, s)) : pAccessRead size off s = { s with env.pRdata := v } := by
  simp [pAccessRead, h, hread]

theorem cAccessRead_defined {s : State} {size : AccessSize} (h : accessDefined size off = true)
    (hread : cPortRead off s = v) : cAccessRead size off s = { s with env.cRdata := v } := by
  simp [cAccessRead, h, hread]

/-- Above the last register of a port every offset reads 0. -/
theorem pPortRead_above (h : 0x40 ≤ off) (s : State) : pPortRead off s = (0, s) := by
  unfold pPortRead
  split
  case h_16 => rfl
  all_goals exact absurd h (by decide)

theorem cPortRead_above (h : 0x1C ≤ off) (s : State) : cPortRead off s = 0 := by
  unfold cPortRead
  split
  case h_8 => rfl
  all_goals exact absurd h (by decide)

/-- The window shows the selected entry while `BUSY = 0` and the index is below `count` (10_state.md R32). -/
theorem windowRead_defined {s : State} (hbusy : s.p.busy = false) (hidx : s.p.partIdx < s.p.count)
    (image : Particle → Word) : windowRead image s = (image (readPart s s.p.partIdx.toNat), s) := by
  simp [windowRead, windowDefined, hbusy, hidx]

/-- The two states differ at most in the free answers (10_state.md R55). -/
def SameButFree (s t : State) : Prop := t = { s with env.oracle := t.env.oracle, env.fresh := t.env.fresh }

theorem SameButFree.refl (s : State) : SameButFree s s := rfl

theorem sameButFree_freeWord (s : State) : SameButFree s (freeWord s).2 := popNat_state s

theorem sameButFree_windowRead (image : Particle → Word) (s : State) : SameButFree s (windowRead image s).2 := by
  unfold windowRead
  split
  · exact .refl s
  · exact sameButFree_freeWord s

/-- Only the three registers of the read-back window can draw a free word. -/
theorem sameButFree_pPortRead (off : Word) (s : State) : SameButFree s (pPortRead off s).2 := by
  unfold pPortRead
  split
  case h_12 | h_13 | h_14 => exact sameButFree_windowRead _ s
  all_goals exact .refl s

/-- A read of the P port, of any size and at any offset, leaves the block as it is. -/
theorem pAccessRead_frame (size : AccessSize) (off : Word) (s : State) :
    ∃ t, SameButFree s t ∧ ∃ v, pAccessRead size off s = { t with env.pRdata := v } := by
  refine ⟨(if accessDefined size off then pPortRead off s else freeWord s).2, ?_, _, rfl⟩
  split
  · exact sameButFree_pPortRead off s
  · exact sameButFree_freeWord s

/-- A read of the C port, of any size and at any offset, leaves the block as it is. -/
theorem cAccessRead_frame (size : AccessSize) (off : Word) (s : State) :
    ∃ t, SameButFree s t ∧ ∃ v, cAccessRead size off s = { t with env.cRdata := v } := by
  refine ⟨(if accessDefined size off then (cPortRead off s, s) else freeWord s).2, ?_, _, rfl⟩
  split
  · exact .refl s
  · exact sameButFree_freeWord s

end Reads

theorem cCtrl_eq (s : State) : cCtrl s = if s.c.en then 1 else 0 := by
  unfold cCtrl
  cases s.c.en <;> rfl

/-! ### The fields of the composed words: each is one part of the concatenation, found from the right -/

theorem pGeom_fields (s : State) :
    (pGeom s).extractLsb' 0 6 = BitVec.ofNat 6 s.geom.w ∧ (pGeom s).extractLsb' 6 2 = 0 ∧
    (pGeom s).extractLsb' 8 6 = BitVec.ofNat 6 s.geom.h ∧ (pGeom s).extractLsb' 14 18 = 0 := by
  unfold pGeom
  refine ⟨?_, ?_, ?_, ?_⟩ <;>
    simp (disch := decide) only [BitVec.extractLsb'_append_eq_of_le, Nat.reduceSub,
      BitVec.extractLsb'_append_eq_right, BitVec.extractLsb'_eq_self, BitVec.ofNat_eq_ofNat]

theorem cCursor_fields (s : State) :
    (cCursor s).extractLsb' 0 6 = s.c.rowCursor ∧ (cCursor s).extractLsb' 6 10 = 0 ∧
    (cCursor s).extractLsb' 16 10 = s.c.partCursor ∧ (cCursor s).extractLsb' 26 6 = 0 := by
  unfold cCursor
  refine ⟨?_, ?_, ?_, ?_⟩ <;>
    simp (disch := decide) only [BitVec.extractLsb'_append_eq_of_le, Nat.reduceSub,
      BitVec.extractLsb'_append_eq_right, BitVec.extractLsb'_eq_self, BitVec.ofNat_eq_ofNat]

theorem pStatus_flags (s : State) :
    (pStatus s).getLsbD 0 = s.p.busy ∧ (pStatus s).getLsbD 1 = s.p.halt ∧ (pStatus s).getLsbD 2 = s.p.inflight ∧
    (pStatus s).getLsbD 3 = s.p.warnTimeout ∧ (pStatus s).getLsbD 4 = s.p.lastTimeout := by
  unfold pStatus
  refine ⟨?_, ?_, ?_, ?_, ?_⟩ <;>
    simp only [BitVec.getLsbD_append, Nat.reduceSub, Nat.reduceLT, if_true, if_false, BitVec.getLsbD_ofBool,
      decide_true, Bool.true_and]

theorem pStatus_fields (s : State) :
    (pStatus s).extractLsb' 5 3 = 0 ∧ (pStatus s).extractLsb' 8 3 = s.p.pphase ∧
    (pStatus s).extractLsb' 11 21 = 0 := by
  unfold pStatus
  refine ⟨?_, ?_, ?_⟩ <;>
    simp (disch := decide) only [BitVec.extractLsb'_append_eq_of_le, Nat.reduceSub,
      BitVec.extractLsb'_append_eq_right, BitVec.extractLsb'_eq_self, BitVec.ofNat_eq_ofNat]

theorem cStatus_flags (s : State) :
    (cStatus s).getLsbD 6 = s.c.redrawPending ∧ (cStatus s).getLsbD 7 = s.c.flipPending ∧
    (cStatus s).getLsbD 8 = s.c.front ∧ (cStatus s).getLsbD 9 = s.c.halt := by
  unfold cStatus
  refine ⟨?_, ?_, ?_, ?_⟩ <;>
    simp only [BitVec.getLsbD_append, Nat.reduceSub, Nat.reduceLT, if_true, if_false, BitVec.getLsbD_ofBool,
      decide_true, Bool.true_and]

theorem cStatus_fields (s : State) :
    (cStatus s).extractLsb' 0 4 = s.c.cphase ∧ (cStatus s).extractLsb' 4 2 = s.c.rstate ∧
    (cStatus s).extractLsb' 10 6 = 0 ∧ (cStatus s).extractLsb' 16 5 = s.c.row ∧
    (cStatus s).extractLsb' 21 3 = 0 ∧ (cStatus s).extractLsb' 24 3 = s.c.bit ∧
    (cStatus s).extractLsb' 27 5 = 0 := by
  unfold cStatus
  refine ⟨?_, ?_, ?_, ?_, ?_, ?_, ?_⟩ <;>
    simp (disch := decide) only [BitVec.extractLsb'_append_eq_of_le, Nat.reduceSub,
      BitVec.extractLsb'_append_eq_right, BitVec.extractLsb'_eq_self, BitVec.ofNat_eq_ofNat]

/-- Settles O45: the values of the two maps, the frame of any read (`pAccessRead_frame`, `cAccessRead_frame`), and the
fields of the composed words. -/
theorem portReadsFollowTheMap : Obligations.PortReadsFollowTheMap := by
  refine ⟨?pMap, ?window, ?pFrame, ?cMap, ?cFrame, ?geom, cCursor_fields, ?status⟩
  case pMap =>
    intro s rest off v h hv
    rw [step_hostP_read h]
    refine congrArg _ ?_
    rcases hv with hv | ⟨habove, halign, rfl⟩
    · simp only [List.mem_cons, Prod.mk.injEq, List.not_mem_nil, or_false] at hv
      rcases hv with ⟨rfl, rfl⟩ | ⟨rfl, rfl⟩ | ⟨rfl, rfl⟩ | ⟨rfl, rfl⟩ | ⟨rfl, rfl⟩ | ⟨rfl, rfl⟩ | ⟨rfl, rfl⟩ |
        ⟨rfl, rfl⟩ | ⟨rfl, rfl⟩ | ⟨rfl, rfl⟩ | ⟨rfl, rfl⟩ | ⟨rfl, rfl⟩ | ⟨rfl, rfl⟩ <;> rfl
    · exact pAccessRead_defined (accessDefined_word halign) (pPortRead_above habove _)
  case window =>
    intro s rest off v h hbusy hidx hv
    rw [step_hostP_read h]
    refine congrArg _ ?_
    simp only [List.mem_cons, Prod.mk.injEq, List.not_mem_nil, or_false] at hv
    have hwindow := windowRead_defined (s := { s with env.sched := rest }) hbusy hidx
    rcases hv with ⟨rfl, rfl⟩ | ⟨rfl, rfl⟩ | ⟨rfl, rfl⟩
    · exact pAccessRead_defined (by decide) (hwindow fun q => q.y ++ q.x)
    · exact pAccessRead_defined (by decide) (hwindow fun q => q.vy ++ q.vx)
    · exact pAccessRead_defined (by decide) (hwindow fun q => q.color)
  case pFrame =>
    intro s rest size off h
    obtain ⟨t, ht, v, hread⟩ := pAccessRead_frame size off { s with env.sched := rest }
    refine ⟨_, step_hostP_read h, ?_⟩
    rw [hread, ht]
  case cMap =>
    intro s rest off v h hv
    rw [step_hostC_read h]
    refine congrArg _ ?_
    rcases hv with hv | ⟨habove, halign, rfl⟩
    · simp only [List.mem_cons, Prod.mk.injEq, List.not_mem_nil, or_false, ← cCtrl_eq] at hv
      rcases hv with ⟨rfl, rfl⟩ | ⟨rfl, rfl⟩ | ⟨rfl, rfl⟩ | ⟨rfl, rfl⟩ | ⟨rfl, rfl⟩ | ⟨rfl, rfl⟩ | ⟨rfl, rfl⟩ <;> rfl
    · exact cAccessRead_defined (accessDefined_word halign) (cPortRead_above habove _)
  case cFrame =>
    intro s rest size off h
    obtain ⟨t, ht, v, hread⟩ := cAccessRead_frame size off { s with env.sched := rest }
    refine ⟨_, step_hostC_read h, ?_⟩
    rw [hread, ht]
  case geom =>
    intro s hg
    simp only [Geometry.wf, decide_eq_true_eq] at hg
    obtain ⟨hw, hpad, hh, htop⟩ := pGeom_fields s
    rw [hw, hh, BitVec.toNat_ofNat, BitVec.toNat_ofNat]
    exact ⟨Nat.mod_eq_of_lt (by omega), hpad, Nat.mod_eq_of_lt (by omega), htop⟩
  case status =>
    intro s
    obtain ⟨hbusy, hhalt, hinflight, hwarn, hlast⟩ := pStatus_flags s
    obtain ⟨hpad, hphase, htop⟩ := pStatus_fields s
    obtain ⟨hredraw, hflip, hfront, hhaltC⟩ := cStatus_flags s
    obtain ⟨hcphase, hrstate, hpadC, hrow, hgap, hbit, htopC⟩ := cStatus_fields s
    exact ⟨hbusy, hhalt, hinflight, hwarn, hlast, hpad, hphase, htop, hcphase, hrstate, hredraw, hflip, hfront, hhaltC,
      hpadC, hrow, hgap, hbit, htopC⟩

/-! ## Reset -/

theorem fbRead_resetWith (g : Geometry) (b : Bool) (k : Nat) : fbRead (State.resetWith g) b k = 0 := by
  cases b <;> rfl

theorem pStatus_resetWith (g : Geometry) : pStatus (State.resetWith g) = 0 := by
  simp [pStatus, State.resetWith, Producer.reset]

theorem cStatus_resetWith (g : Geometry) : cStatus (State.resetWith g) = 0 := by
  simp [cStatus, State.resetWith, Consumer.reset]

theorem step_reset {s : State} {rest : List Action} (h : s.env.sched = .reset :: rest) :
    step s = .next (resetStep { s with env.sched := rest }) :=
  step_of_done (fetch_cons h)

/-- Settles O47: the reset values are the literals of `State.resetWith`, except the framebuffers', which read 0 at every
index (`fbRead_resetWith`). -/
theorem resetValues : Obligations.ResetValues := by
  refine ⟨fun g => ?values, rfl, fun s rest h => ?act⟩
  case values =>
    exact
      ⟨rfl, rfl, rfl, rfl, rfl, pStatus_resetWith g, rfl, rfl, rfl, rfl, rfl, rfl, rfl, rfl, rfl, rfl, rfl, rfl,
        rfl, rfl, rfl, rfl, rfl, rfl, rfl, rfl, rfl, rfl, rfl, rfl, rfl, rfl, cStatus_resetWith g, rfl, rfl, rfl,
        rfl, rfl, rfl, rfl, rfl, rfl, rfl, fbRead_resetWith g, rfl, rfl, rfl, rfl, rfl, rfl, rfl, rfl, rfl, rfl,
        rfl, rfl⟩
  case act => exact step_reset h

/-- Reset establishes every clause of the machine invariant for a geometry that the block can be built with. -/
theorem inv_resetWith {g : Geometry} (hg : g.wf = true) : Inv (State.resetWith g) where
  geometry := hg
  count := Nat.zero_le _
  staged := Nat.zero_le _
  row := scan_pos (s := State.resetWith g) hg
  dma := fun hbusy => by cases hbusy
  rowCursor := fun hclear => absurd hclear (show ¬ (0 : BitVec 2) = 1 by decide)
  held := fun _ hodd => by cases hodd
  words := fun b k _ => fbRead_resetWith g b k
  pcfg := show Producer.reset.cfg &&& ~~~pCfgMask = 0 by decide
  ccfg := show Consumer.reset.cfg &&& ~~~cCfgMask = 0 by decide
  memory := rfl

/-- After reset all toggles and flops are 0 and nothing is in flight (42_fsh.md R169). -/
theorem handshake_resetWith (g : Geometry) : Handshake (State.resetWith g) where
  conserved := rfl
  idle := fun _ => ⟨rfl, rfl, rfl⟩
  ready := fun hfull => by cases hfull
  shown := fun hshown => by rcases hshown with hshown | hshown <;> cases hshown
  consumed := fun hfull => by cases hfull
  seenP := fun _ => ⟨rfl, rfl, rfl, rfl⟩
  seenReq := fun _ => ⟨rfl, rfl⟩
  orderP := fun hfull => by cases hfull
  behindP := fun _ => rfl
  seenC := fun _ hinflight => by cases hinflight
  seenAck := fun _ => ⟨rfl, rfl⟩
  orderC := fun hfull => by cases hfull
  behindC := fun _ => rfl

/-- Settles O49; the geometry of `State.reset` is a legal one. -/
theorem resetSatisfiesInvariants : Obligations.ResetSatisfiesInvariants :=
  ⟨inv_resetWith (by decide), handshake_resetWith _, fun g hg => ⟨inv_resetWith hg, handshake_resetWith g⟩⟩

/-! ## The operation a carrier selects -/

theorem decodeCommand_row {w : Word} {i : Instr} (h : decodeCommand w = .ok i) :
    (commandOpc w, i) ∈ commandRows ∧ w.extractLsb' 8 24 = 0 := by
  unfold decodeCommand at h
  split at h
  next => cases h
  next hhigh =>
    split at h
    next hrow =>
      cases h
      obtain ⟨_, _, hrows, -⟩ := List.lookup_eq_some_iff.mp hrow
      exact ⟨hrows ▸ by simp, not_not.mp hhigh⟩
    next => cases h

/-- With bits 31:8 clear a command word is its opcode (30_encoding.md R91). -/
theorem eq_zeroExtend_commandOpc {w : Word} (h : w.extractLsb' 8 24 = 0) : w = (commandOpc w).zeroExtend 32 := by
  unfold commandOpc
  rw [← BitVec.toNat_inj] at h ⊢
  simp only [BitVec.extractLsb'_toNat, Nat.shiftRight_eq_div_pow, Nat.reducePow, BitVec.ofNat_eq_ofNat,
    BitVec.toNat_ofNat, Nat.zero_mod, BitVec.truncate_eq_setWidth, BitVec.toNat_setWidth, pow_zero, Nat.div_one]
    at h ⊢
  omega

/-- A listed command word is the code of the operation it decodes to. -/
theorem encode_of_decodeCommand {w : Word} {i : Instr} (h : decodeCommand w = .ok i) : encode i = .command w := by
  have hrows : ∀ row ∈ commandRows, encode row.2 = .command (row.1.zeroExtend 32) := by decide
  obtain ⟨hrow, hhigh⟩ := decodeCommand_row h
  rw [hrows _ hrow, ← eq_zeroExtend_commandOpc hhigh]

theorem isConsumerOp_of_decodeCommand {w : Word} {i : Instr} (h : decodeCommand w = .ok i) :
    isConsumerOp i = false := by
  simp [isConsumerOp, encode_of_decodeCommand h]

theorem encode_decodeProducer : ∀ code, encode (decodeProducer code) = .pphase code := by decide

theorem isConsumerOp_decodeProducer (code : BitVec 3) : isConsumerOp (decodeProducer code) = false := by
  simp [isConsumerOp, encode_decodeProducer]

theorem isConsumerOp_decodeConsumer : ∀ code, isConsumerOp (decodeConsumer code) = true := by decide

theorem decodeConsumer_eq_cFlip : ∀ code, decodeConsumer code = .cFlip → code = 10 := by decide

/-! ## What the producer domain leaves as it is

One rule per state operation, per frame of an operation and per pseudocode, as for `Inv`: `{ h with … }` names the
clauses that need an argument. -/

/-- What an operation of the producer domain can have done to the state `b` it started in: nothing to the consumer
domain (10_state.md R20), to the geometry and to the power-on contents; nothing to `count` unless it `loads` the table
(R28); and the padding bits of the bitmap are still 0 if they were (R35). -/
structure ProducerFrame (loads : Prop) (b t : State) : Prop where
  consumer : t.c = b.c
  geom : t.geom = b.geom
  epoch : t.env.epoch = b.env.epoch
  count : loads ∨ t.p.count = b.p.count
  clean : b.geom.wf = true → BitmapClean b → BitmapClean t

section ProducerRules

variable {loads : Prop} {b s : State}

theorem ProducerFrame.refl (loads : Prop) (s : State) : ProducerFrame loads s s :=
  ⟨rfl, rfl, rfl, .inr rfl, fun _ => id⟩

theorem pFrame_nextAction (h : ProducerFrame loads b s) : ProducerFrame loads b (nextAction s).2 := by
  unfold nextAction
  split
  · exact { h with }
  · exact { h with }

/-! ### Free inputs and the external read port -/

theorem pFrame_popNat (h : ProducerFrame loads b s) : ProducerFrame loads b (popNat s).2 := by
  rw [popNat_state]
  exact { h with }

theorem pFrame_hostByte (h : ProducerFrame loads b s) (addr : Word) : ProducerFrame loads b (hostByte addr s).2 := by
  unfold hostByte
  split
  · exact h
  · exact pFrame_popNat h

theorem pFrame_memRead (h : ProducerFrame loads b s) (addr : Word) : ProducerFrame loads b (memRead addr s).2 :=
  pFrame_hostByte (pFrame_hostByte (pFrame_hostByte (pFrame_hostByte h _) _) _) _

/-! ### Fatal faults, acceptance, completion -/

theorem pFrame_raiseP (h : ProducerFrame loads b s) (code : BitVec 8) (info : BitVec 24) :
    ProducerFrame loads b (raiseP code info s) := { h with }

theorem pFrame_accept (h : ProducerFrame loads b s) (opc : BitVec 8) : ProducerFrame loads b (accept opc s) :=
  { h with }

theorem pFrame_complete (h : ProducerFrame loads b s) : ProducerFrame loads b (complete s) := { h with }

theorem pFrame_illegalCommand (h : ProducerFrame loads b s) (w : Word) :
    ProducerFrame loads b (illegalCommand w s) := by
  obtain ⟨-, e⟩ | ⟨-, -, e⟩ | ⟨-, e⟩ := illegalCommand_cases w s <;> rw [e]
  · exact h
  · exact pFrame_raiseP h _ _
  · exact pFrame_raiseP h _ _

/-! ### Memories -/

theorem pFrame_writePart (h : ProducerFrame loads b s) (k : Nat) (q : Particle) :
    ProducerFrame loads b (writePart k q s) := { h with }

theorem pFrame_stgWrite (h : ProducerFrame loads b s) (k : Nat) (e : Staged) :
    ProducerFrame loads b (stgWrite k e s) := { h with }

/-- A bit written inside the field is not a padding bit. -/
theorem pFrame_setBit (h : ProducerFrame loads b s) {cx : Nat} (hcx : b.geom.wf = true → cx < b.geom.w) (cy : Nat)
    (v : Bool) : ProducerFrame loads b (setObmRow cy (withBit (obmRow s cy) cx v) s) := by
  refine { h with clean := fun hwf hclean x y hx hy => ?_ }
  have hcell := hcx hwf
  change s.geom.w ≤ x at hx
  rw [h.geom] at hx
  have hwidth : b.geom.w ≤ 32 := by
    simp only [Geometry.wf, decide_eq_true_eq] at hwf
    omega
  rw [obmBit_setBit s cx cy v (by omega), if_neg (by omega)]
  exact h.clean hwf hclean x y (h.geom ▸ hx) hy

/-- A cleared row has no bit set. -/
theorem pFrame_clearRow (h : ProducerFrame loads b s) (y : Nat) : ProducerFrame loads b (setObmRow y 0 s) := by
  refine { h with clean := fun hwf hclean x j hx hj => ?_ }
  rw [obmBit, obmRow_setObmRow]
  split
  · exact BitVec.getLsbD_zero
  · exact h.clean hwf hclean x j hx hj

theorem pFrame_obmClearAll (h : ProducerFrame loads b s) : ProducerFrame loads b (obmClearAll s) :=
  List.foldlRecOn _ _ h fun _ ht y _ => pFrame_clearRow ht y

theorem pFrame_writeParts (h : ProducerFrame loads b s) (k : Nat) (l : List Particle) :
    ProducerFrame loads b (writeParts k l s) := by
  induction l generalizing k s with
  | nil => exact h
  | cons q qs ih => exact ih (pFrame_writePart h k q) (k + 1)

theorem pFrame_obmPut (h : ProducerFrame loads b s) (v : Bool) (cx cy : Nat) :
    (obmPut v cx cy s).Meets (ProducerFrame loads b) := by
  obtain ⟨hin, e⟩ | ⟨-, e⟩ := obmPut_cases v cx cy s <;> rw [e]
  · have hcx := ((inField_iff s cx cy).mp hin).1
    exact .ok (pFrame_setBit h (fun _ => h.geom ▸ hcx) cy v)
  · exact .raised (pFrame_raiseP h _ _)

theorem pFrame_obmGet (h : ProducerFrame loads b s) (cx cy : Nat) {rest : Bool → Result}
    (hrest : ∀ v, (rest v).Meets (ProducerFrame loads b)) : (obmGet cx cy rest s).Meets (ProducerFrame loads b) := by
  obtain ⟨-, e⟩ | ⟨-, e⟩ := obmGet_cases cx cy rest s <;> rw [e]
  · exact hrest _
  · exact .raised (pFrame_raiseP h _ _)

/-! ### The frames of an operation -/

/-- The pseudocode of a host command runs only from an idle domain. -/
theorem pFrame_command (h : ProducerFrame loads b s) (opc : BitVec 8) {body : State → Result}
    (hbody : Idle s → (body (accept opc s)).Meets (ProducerFrame loads b)) :
    NextMeets (ProducerFrame loads b) (command opc body s) := by
  obtain ⟨-, e⟩ | ⟨-, -, e⟩ | ⟨hidle, e⟩ := command_cases opc body s <;> rw [e]
  · exact .next h
  · exact .next (pFrame_raiseP h _ _)
  · exact Result.nextMeets_outcome (hbody hidle) fun _ => pFrame_complete

theorem pFrame_producerStep (h : ProducerFrame loads b s) {f : State → Host.Outcome State Fault Refusal}
    (hf : s.p.halt = false → NextMeets (ProducerFrame loads b) (f s)) :
    NextMeets (ProducerFrame loads b) (producerStep f s) := by
  obtain ⟨-, e⟩ | ⟨hhalt, e⟩ := producerStep_cases f s <;> rw [e]
  · exact .next h
  · exact hf hhalt

/-- A turn that performs a pseudocode and then `done`. -/
theorem pFrame_producerRuns (h : ProducerFrame loads b s) {body : State → Result} {done : State → State}
    (hbody : s.p.halt = false → (body s).Meets (ProducerFrame loads b))
    (hdone : ∀ t, ProducerFrame loads b t → ProducerFrame loads b (done t)) :
    NextMeets (ProducerFrame loads b) (producerStep (fun s => (body s).outcome done) s) :=
  pFrame_producerStep h fun hhalt => Result.nextMeets_outcome (hbody hhalt) hdone

theorem pFrame_gated (h : ProducerFrame loads b s) (opc : BitVec 8) {body : State → Result}
    (hbody : (body s).Meets (ProducerFrame loads b)) : (gated opc body s).Meets (ProducerFrame loads b) := by
  obtain ⟨-, e⟩ | ⟨-, e⟩ := gated_cases opc body s <;> rw [e]
  · exact .raised (pFrame_raiseP h _ _)
  · exact hbody

theorem pFrame_withParticles {rest : State → Result} (hrest : (rest s).Meets (ProducerFrame loads b)) :
    (withParticles s rest).Meets (ProducerFrame loads b) := by
  obtain ⟨-, e⟩ | ⟨-, e⟩ := withParticles_cases s rest <;> rw [e]
  · exact .stop _
  · exact hrest

/-! ### The host commands of the bitmap and the loads -/

theorem pFrame_bodyObmGet (h : ProducerFrame loads b s) : (bodyObmGet s).Meets (ProducerFrame loads b) :=
  pFrame_obmGet h _ _ fun _ => .ok { h with }

/-- The pixel of index `k` is in column `k mod W`. -/
theorem pFrame_loadPixel (h : ProducerFrame loads b s) (base : Word) (k : Nat) :
    ProducerFrame loads b (loadPixel base k s) := by
  have hread := pFrame_memRead h (base + BitVec.ofNat 32 (4 * k))
  unfold loadPixel
  dsimp only
  split
  · refine pFrame_setBit hread (fun hwf => ?_) _ _
    simp only [Geometry.wf, decide_eq_true_eq] at hwf
    rw [h.geom]
    exact Nat.mod_lt _ (by omega)
  · exact hread

theorem pFrame_bodyPpeLdbg (h : ProducerFrame loads b s) : (bodyPpeLdbg s).Meets (ProducerFrame loads b) := by
  unfold bodyPpeLdbg
  split
  · exact .ok (List.foldlRecOn _ _ h fun _ ht k _ => pFrame_loadPixel ht _ k)
  · exact .raised (pFrame_raiseP h _ _)

theorem pFrame_loadTriple (base : Word) (k : Nat) (s : State) (h : ProducerFrame loads b s) :
    (loadTriple base k s).Meets (ProducerFrame loads b) := by
  unfold loadTriple
  extract_lets rx ry rc cx cy
  have hread : ProducerFrame loads b rc.2 := pFrame_memRead (pFrame_memRead (pFrame_memRead h _) _) _
  clear_value rc cx cy
  split
  · exact pFrame_obmPut (pFrame_writePart hread _ _) _ _ _
  · exact .raised (pFrame_raiseP hread _ _)

/-- The one operation that writes `count` (10_state.md R28). -/
theorem pFrame_bodyPpeLdpart (hloads : loads) (h : ProducerFrame loads b s) :
    (bodyPpeLdpart s).Meets (ProducerFrame loads b) := by
  unfold bodyPpeLdpart
  split
  · exact .raised (pFrame_raiseP h _ _)
  · split
    · exact Result.meets_andThen (meets_runEach (pFrame_loadTriple _) _ h) fun _ ht =>
        .ok { ht with count := .inl hloads }
    · exact .raised (pFrame_raiseP h _ _)

/-! ### The engine -/

theorem pFrame_scaleOp (h : ProducerFrame loads b s) : ProducerFrame loads b (scaleOp s) := { h with }

theorem pFrame_sortIfEnabled (h : ProducerFrame loads b s) : ProducerFrame loads b (sortIfEnabled s) := by
  unfold sortIfEnabled
  split
  · refine pFrame_writeParts ?_ _ _
    exact { h with }
  · exact h

theorem pFrame_accelOp (h : ProducerFrame loads b s) (k : Nat) : ProducerFrame loads b (accelOp k s) := by
  have hdraws : ProducerFrame loads b (draw s.p.work.jmax (draw s.p.work.jmax s).2).2 :=
    pFrame_popNat (pFrame_popNat h)
  refine pFrame_writePart ?_ _ _
  exact { hdraws with }

theorem pFrame_accelAll (h : ProducerFrame loads b s) : ProducerFrame loads b (accelAll s) :=
  List.foldlRecOn _ _ h fun _ ht k _ => pFrame_accelOp ht k

theorem pFrame_commitMove (h : ProducerFrame loads b s) (k : Nat) (q : Particle) (m : Motion) :
    (commitMove k q m s).Meets (ProducerFrame loads b) := by
  refine Result.meets_andThen (pFrame_obmPut h _ _ _) fun _ hcleared =>
    Result.meets_andThen (pFrame_obmPut hcleared _ _ _) fun _ hset => .ok (pFrame_writePart ?_ _ _)
  exact { hset with }

theorem pFrame_resolveHit (h : ProducerFrame loads b s) (k : Nat) (q : Particle) (delta : Nat) (m : Motion) :
    (resolveHit k q delta m s).Meets (ProducerFrame loads b) := by
  unfold resolveHit
  dsimp only
  split
  · exact pFrame_commitMove h _ _ _
  · split
    · exact pFrame_commitMove h _ _ _
    · exact pFrame_obmGet h _ _ fun _ => pFrame_obmGet h _ _ fun _ => pFrame_commitMove h _ _ _

theorem pFrame_moveOp (k : Nat) (s : State) (h : ProducerFrame loads b s) :
    (moveOp k s).Meets (ProducerFrame loads b) := by
  unfold moveOp
  extract_lets q m oldidx newidx delta w1 p1 s1
  have h1 : ProducerFrame loads b s1 := { h with }
  split
  · exact pFrame_commitMove h1 _ _ _
  · refine pFrame_obmGet h1 _ _ fun hit => ?_
    cases hit with
    | false => exact pFrame_commitMove h1 _ _ _
    | true => exact pFrame_resolveHit h1 _ _ _ _

theorem pFrame_bodyPpeIter (h : ProducerFrame loads b s) : (bodyPpeIter s).Meets (ProducerFrame loads b) :=
  pFrame_gated h _ (pFrame_withParticles
    (meets_runEach pFrame_moveOp _ (pFrame_accelAll (pFrame_sortIfEnabled (pFrame_scaleOp h)))))

theorem pFrame_bodyPpeSnap (h : ProducerFrame loads b s) : (bodyPpeSnap s).Meets (ProducerFrame loads b) := by
  have hsnap : ProducerFrame loads b ((List.range s.p.count.toNat).foldl (fun t k => snapEntry k t) s) :=
    List.foldlRecOn _ _ h fun _ ht k _ => pFrame_stgWrite ht k _
  exact pFrame_gated h _ (pFrame_withParticles (.ok { hsnap with }))

/-! ### The producer half of the handshake, and the tick -/

theorem pFrame_takeConsumed (h : ProducerFrame loads b s) (w : Word) :
    (takeConsumed w s).Meets (ProducerFrame loads b) := by
  obtain ⟨-, e⟩ | ⟨-, e⟩ := takeConsumed_cases w s <;> rw [e]
  · exact .ok { h with }
  · exact .raised { h with }

theorem pFrame_sendOrWait (h : ProducerFrame loads b s) : (sendOrWait s).Meets (ProducerFrame loads b) := by
  unfold sendOrWait
  split
  · exact .pending { h with }
  · exact .ok { h with }

theorem pFrame_bodyFshSendrdy (h : ProducerFrame loads b s) : (bodyFshSendrdy s).Meets (ProducerFrame loads b) :=
  pFrame_gated h _ (pFrame_sendOrWait h)

theorem pFrame_waitConsumed (h : ProducerFrame loads b s) : (waitConsumed s).Meets (ProducerFrame loads b) := by
  unfold waitConsumed
  split
  · split
    · exact pFrame_takeConsumed h _
    · exact .pending { h with }
  · exact .ok { h with }

theorem pFrame_tickAfterWait (h : ProducerFrame loads b s) : (tickAfterWait s).Meets (ProducerFrame loads b) :=
  .pending { h with }

theorem pFrame_snapAndSend (h : ProducerFrame loads b s) : (snapAndSend s).Meets (ProducerFrame loads b) :=
  Result.meets_andThen (pFrame_bodyPpeSnap h) fun _ => pFrame_bodyFshSendrdy

theorem pFrame_bodyPpeTick (h : ProducerFrame loads b s) : (bodyPpeTick s).Meets (ProducerFrame loads b) := by
  unfold bodyPpeTick
  split
  · exact Result.meets_andThen (pFrame_waitConsumed h) fun _ => pFrame_tickAfterWait
  · exact Result.meets_andThen (pFrame_bodyPpeIter { h with }) fun _ ht => pFrame_snapAndSend { ht with }

theorem pFrame_waitStep (h : ProducerFrame loads b s) : (waitStep s).Meets (ProducerFrame loads b) := by
  have hchoose : ProducerFrame loads b (choose s).2 := pFrame_popNat h
  unfold waitStep waitEdge
  split
  · split
    · refine Result.meets_andThen (pFrame_takeConsumed h _) fun t ht => ?_
      split
      · exact pFrame_tickAfterWait ht
      · exact .ok ht
    · split
      · exact .ok { hchoose with }
      · exact .pending hchoose
  · split
    · exact pFrame_sendOrWait h
    · exact pFrame_waitConsumed h

/-! ### The producer micro-operations -/

theorem pFrame_endOfMotion (h : ProducerFrame loads b s) : ProducerFrame loads b (endOfMotion s) := by
  unfold endOfMotion
  split
  · exact { h with }
  · exact pFrame_complete h

theorem pFrame_toMotion (h : ProducerFrame loads b s) : ProducerFrame loads b (toMotion s) := by
  unfold toMotion
  split
  · exact pFrame_endOfMotion h
  · exact { h with }

theorem pFrame_toVelocity (h : ProducerFrame loads b s) : ProducerFrame loads b (toVelocity s) := by
  unfold toVelocity
  split
  · exact pFrame_endOfMotion h
  · exact { h with }

theorem pFrame_afterAccel (h : ProducerFrame loads b s) : ProducerFrame loads b (afterAccel s) := by
  unfold afterAccel
  split
  · exact { h with }
  · exact pFrame_toMotion h

theorem pFrame_afterMove (h : ProducerFrame loads b s) : ProducerFrame loads b (afterMove s) := by
  unfold afterMove
  split
  · exact { h with }
  · exact pFrame_endOfMotion h

/-- Under `P.EXEC` the count is written only if `PPE.LDPART` is the latched command. -/
theorem pFrame_inProgress (hloads : s.p.opc = 0x11 → loads) (h : ProducerFrame loads b s) :
    (inProgress s).Meets (ProducerFrame loads b) := by
  unfold inProgress
  split
  next => exact pFrame_obmPut h _ _ _
  next => exact pFrame_obmPut h _ _ _
  next => exact pFrame_bodyObmGet h
  next => exact .ok (pFrame_obmClearAll h)
  next => exact pFrame_bodyPpeLdbg h
  next hopc =>
    have hword : (0x11 : Word) = s.p.opc.zeroExtend 32 := Encoded.command.inj (encode_of_decodeCommand hopc)
    exact pFrame_bodyPpeLdpart (hloads (by bv_omega)) h
  next => exact .ok (pFrame_obmClearAll h)
  next => exact pFrame_bodyPpeIter h
  next => exact pFrame_bodyPpeSnap h
  next => exact pFrame_snapAndSend h
  next => exact pFrame_bodyFshSendrdy h
  next => exact pFrame_waitConsumed h
  next => exact .ok h
  next => exact .raised (pFrame_raiseP h _ _)

theorem pFrame_execPScale (h : ProducerFrame loads b s) : NextMeets (ProducerFrame loads b) (execPScale s) :=
  pFrame_producerStep h fun _ => .next { h with }

theorem pFrame_execPSort (h : ProducerFrame loads b s) : NextMeets (ProducerFrame loads b) (execPSort s) :=
  pFrame_producerRuns h (fun _ => pFrame_withParticles (.ok (pFrame_sortIfEnabled h))) fun _ => pFrame_toVelocity

theorem pFrame_execPAccel (h : ProducerFrame loads b s) : NextMeets (ProducerFrame loads b) (execPAccel s) := by
  refine pFrame_producerRuns h (fun _ => pFrame_withParticles (.ok ?_)) fun _ => pFrame_afterAccel
  split
  · exact pFrame_accelOp h _
  · exact h

theorem pFrame_execPMove (h : ProducerFrame loads b s) : NextMeets (ProducerFrame loads b) (execPMove s) := by
  refine pFrame_producerRuns h (fun _ => pFrame_withParticles ?_) fun _ => pFrame_afterMove
  split
  · exact pFrame_moveOp _ _ h
  · exact .ok h

theorem pFrame_execTokConsumed (h : ProducerFrame loads b s) :
    NextMeets (ProducerFrame loads b) (execTokConsumed s) := by
  refine pFrame_producerStep h fun _ => ?_
  split
  · exact Result.nextMeets_outcome (pFrame_takeConsumed h _) fun _ => id
  · exact .next h

/-- The operation writes `count` if it completes: `PPE.LDPART` itself, or what is left of it under `P.EXEC`. -/
def LoadsCount (i : Instr) (s : State) : Prop :=
  (i = .ppeLdpart ∧ Idle s) ∨ (i = .pExec ∧ s.p.opc = 0x11 ∧ s.p.halt = false)

theorem pFrame_exec {i : Instr} (hi : isConsumerOp i = false) (hloads : LoadsCount i s → loads)
    (h : ProducerFrame loads b s) : NextMeets (ProducerFrame loads b) (exec i s) := by
  cases i with
  | nop => exact pFrame_command h _ fun _ => .ok (pFrame_accept h _)
  | obmSet => exact pFrame_command h _ fun _ => pFrame_obmPut (pFrame_accept h _) _ _ _
  | obmClr => exact pFrame_command h _ fun _ => pFrame_obmPut (pFrame_accept h _) _ _ _
  | obmGet => exact pFrame_command h _ fun _ => pFrame_bodyObmGet (pFrame_accept h _)
  | obmClrall => exact pFrame_command h _ fun _ => .ok (pFrame_obmClearAll (pFrame_accept h _))
  | ppeLdbg => exact pFrame_command h _ fun _ => pFrame_bodyPpeLdbg (pFrame_accept h _)
  | ppeLdpart =>
    exact pFrame_command h _ fun hidle => pFrame_bodyPpeLdpart (hloads (.inl ⟨rfl, hidle⟩)) (pFrame_accept h _)
  | ppeClrall => exact pFrame_command h _ fun _ => .ok (pFrame_obmClearAll (pFrame_accept h _))
  | ppeIter => exact pFrame_command h _ fun _ => pFrame_bodyPpeIter (pFrame_accept h _)
  | ppeSnap => exact pFrame_command h _ fun _ => pFrame_bodyPpeSnap (pFrame_accept h _)
  | ppeTick => exact pFrame_command h _ fun _ => pFrame_bodyPpeTick (pFrame_accept h _)
  | fshSendrdy => exact pFrame_command h _ fun _ => pFrame_bodyFshSendrdy (pFrame_accept h _)
  | fshWaitcons => exact pFrame_command h _ fun _ => pFrame_waitConsumed (pFrame_accept h _)
  | pIdle => exact pFrame_producerStep h fun _ => .next h
  | pScale => exact pFrame_execPScale h
  | pSort => exact pFrame_execPSort h
  | pAccel => exact pFrame_execPAccel h
  | pMove => exact pFrame_execPMove h
  | pExec =>
    exact pFrame_producerRuns h (fun hhalt => pFrame_inProgress (fun hopc => hloads (.inr ⟨rfl, hopc, hhalt⟩)) h)
      fun _ => pFrame_complete
  | pWait => exact pFrame_producerRuns h (fun _ => pFrame_waitStep h) fun _ => pFrame_complete
  | pHalted => exact pFrame_producerStep h fun _ => .next h
  | tokConsumed => exact pFrame_execTokConsumed h
  | cOff | cSetbit | cDmastart | cPoll | cWaitdma | cDummy2 | cRedraw | cWaitstrobe | cStrobe | cNext | cFlip
  | cHalted | sliceIdle | sliceClear | sliceParticles | fshPollrdy | fshSendcons | bpdSlice | tokReady =>
    exact absurd hi (by decide)

end ProducerRules

/-! ## What the consumer domain leaves as it is -/

/-- What an operation of the consumer domain can have done to the state `b` it started in: nothing to the producer
domain (10_state.md R20), to the geometry and to the power-on contents; the trace is at most extended (R54); `front` is
as it was unless the operation `flips` (R49). -/
structure ConsumerFrame (flips : Prop) (b t : State) : Prop where
  producer : t.p = b.p
  geom : t.geom = b.geom
  epoch : t.env.epoch = b.env.epoch
  trace : ∃ events, t.c.trace = b.c.trace ++ events
  front : flips ∨ t.c.front = b.c.front

section ConsumerRules

variable {flips : Prop} {b s : State}

theorem ConsumerFrame.refl (flips : Prop) (s : State) : ConsumerFrame flips s s :=
  ⟨rfl, rfl, rfl, ⟨[], (List.append_nil _).symm⟩, .inr rfl⟩

theorem cFrame_nextAction (h : ConsumerFrame flips b s) : ConsumerFrame flips b (nextAction s).2 := by
  unfold nextAction
  split
  · exact { h with }
  · exact { h with }

/-- Every write of the trace puts events after its end. -/
theorem ConsumerFrame.emit (h : ConsumerFrame flips b s) (events : List Event) :
    ∃ all, s.c.trace ++ events = b.c.trace ++ all := by
  obtain ⟨before, htrace⟩ := h.trace
  exact ⟨before ++ events, by rw [htrace, List.append_assoc]⟩

theorem cFrame_popNat (h : ConsumerFrame flips b s) : ConsumerFrame flips b (popNat s).2 := by
  rw [popNat_state]
  exact { h with }

theorem cFrame_raiseC (h : ConsumerFrame flips b s) (code : BitVec 8) (info : BitVec 24) :
    ConsumerFrame flips b (raiseC code info s) := { h with trace := h.emit _ }

theorem cFrame_toPhase (h : ConsumerFrame flips b s) (code : BitVec 4) : ConsumerFrame flips b (toPhase code s) :=
  { h with }

theorem cFrame_bgRead (h : ConsumerFrame flips b s) (x y : Nat) : ConsumerFrame flips b (bgRead x y s).2 := by
  unfold bgRead
  split
  · exact h
  · exact cFrame_popNat h

theorem cFrame_fbWrite (h : ConsumerFrame flips b s) (buffer : Bool) (k : Nat) (v : Word) :
    ConsumerFrame flips b (fbWrite buffer k v s) := by
  cases buffer with
  | false => exact { h with }
  | true => exact { h with }

theorem cFrame_takeReady (h : ConsumerFrame flips b s) (w : Word) : (takeReady w s).Meets (ConsumerFrame flips b) := by
  obtain ⟨-, e⟩ | ⟨-, e⟩ := takeReady_cases w s <;> rw [e]
  · exact .ok { h with }
  · exact .raised { h with trace := h.emit _ }

theorem cFrame_sendConsumed (h : ConsumerFrame flips b s) : (sendConsumed s).Meets (ConsumerFrame flips b) := by
  obtain ⟨-, e⟩ | ⟨-, e⟩ := sendConsumed_cases s <;> rw [e]
  · exact .raised (cFrame_raiseC h _ _)
  · exact .ok { h with }

theorem cFrame_consumerStep (h : ConsumerFrame flips b s) {f : State → Host.Outcome State Fault Refusal}
    (hf : NextMeets (ConsumerFrame flips b) (f s)) : NextMeets (ConsumerFrame flips b) (consumerStep f s) := by
  obtain ⟨-, e⟩ | ⟨-, e⟩ := consumerStep_cases f s <;> rw [e]
  · exact .next h
  · exact hf

/-- A turn that performs a pseudocode and then `done`. -/
theorem cFrame_consumerRuns (h : ConsumerFrame flips b s) {body : State → Result} {done : State → State}
    (hbody : (body s).Meets (ConsumerFrame flips b))
    (hdone : ∀ t, ConsumerFrame flips b t → ConsumerFrame flips b (done t)) :
    NextMeets (ConsumerFrame flips b) (consumerStep (fun s => (body s).outcome done) s) :=
  cFrame_consumerStep h (Result.nextMeets_outcome hbody hdone)

/-! ### The redraw slices -/

theorem cFrame_sliceIdleBody (h : ConsumerFrame flips b s) : (sliceIdleBody s).Meets (ConsumerFrame flips b) :=
  .ok { h with }

theorem cFrame_sliceClearBody (h : ConsumerFrame flips b s) : (sliceClearBody s).Meets (ConsumerFrame flips b) := by
  unfold sliceClearBody
  split
  · have hrow : ConsumerFrame flips b
        ((List.range s.geom.size).foldl (fun t x => clearPixel s.c.rowCursor.toNat x t) s) :=
      List.foldlRecOn _ _ h fun _ ht x _ => cFrame_fbWrite (cFrame_bgRead ht x _) _ _ _
    exact .ok { hrow with }
  · exact .stop _

theorem cFrame_drawStaged (k : Nat) (s : State) (h : ConsumerFrame flips b s) :
    (drawStaged k s).Meets (ConsumerFrame flips b) := by
  unfold drawStaged
  dsimp only
  split
  · split
    · exact .raised (cFrame_raiseC h _ _)
    · exact .ok (cFrame_fbWrite h _ _ _)
  · exact .stop _

theorem cFrame_sliceParticlesBody (h : ConsumerFrame flips b s) :
    (sliceParticlesBody s).Meets (ConsumerFrame flips b) := by
  refine Result.meets_andThen (meets_runEach cFrame_drawStaged _ h) fun t ht => .ok ?_
  split
  · exact { ht with }
  · exact { ht with }

theorem cFrame_sliceBody (h : ConsumerFrame flips b s) : (sliceBody s).Meets (ConsumerFrame flips b) := by
  unfold sliceBody
  split
  next => exact cFrame_sliceClearBody h
  next => exact cFrame_sliceParticlesBody h
  next => exact cFrame_sliceIdleBody h
  next => exact .raised (cFrame_raiseC h _ _)

/-! ### The consumer micro-operations -/

theorem cFrame_pollReady (h : ConsumerFrame flips b s) {rest : Bool → State → Result}
    (hrest : ∀ got t, ConsumerFrame flips b t → (rest got t).Meets (ConsumerFrame flips b)) :
    (pollReady rest s).Meets (ConsumerFrame flips b) := by
  unfold pollReady
  split
  · exact Result.meets_andThen (cFrame_takeReady h _) (hrest true)
  · exact hrest false s h

/-- The one operation that writes `front` (43_bpd.md R198). -/
theorem cFrame_flipBody (hflips : flips) (h : ConsumerFrame flips b s) :
    (flipBody s).Meets (ConsumerFrame flips b) :=
  Result.meets_andThen (cFrame_sendConsumed { h with front := .inl hflips }) fun _ ht => .ok { ht with }

theorem cFrame_execCSetbit (h : ConsumerFrame flips b s) : NextMeets (ConsumerFrame flips b) (execCSetbit s) :=
  cFrame_consumerStep h (.next { h with })

theorem cFrame_execCDmastart (h : ConsumerFrame flips b s) : NextMeets (ConsumerFrame flips b) (execCDmastart s) :=
  cFrame_consumerStep h (.next { h with })

theorem cFrame_execCPoll (h : ConsumerFrame flips b s) : NextMeets (ConsumerFrame flips b) (execCPoll s) := by
  refine cFrame_consumerRuns h (cFrame_pollReady h fun got t ht => .ok ?_) fun _ ht => cFrame_toPhase ht _
  cases got with
  | false => exact ht
  | true => exact { ht with }

theorem cFrame_execCWaitdma (h : ConsumerFrame flips b s) : NextMeets (ConsumerFrame flips b) (execCWaitdma s) := by
  refine cFrame_consumerStep h (.next ?_)
  split
  · exact h
  · exact cFrame_toPhase h _

theorem cFrame_execCDummy2 (h : ConsumerFrame flips b s) : NextMeets (ConsumerFrame flips b) (execCDummy2 s) :=
  cFrame_consumerStep h (.next { h with })

theorem cFrame_execCRedraw (h : ConsumerFrame flips b s) : NextMeets (ConsumerFrame flips b) (execCRedraw s) := by
  have hchoose : ConsumerFrame flips b (choose s).2 := cFrame_popNat h
  refine cFrame_consumerStep h ?_
  split
  · split
    · exact Result.nextMeets_outcome (cFrame_sliceBody hchoose) fun _ => id
    · exact .next (cFrame_toPhase hchoose _)
  · exact .next (cFrame_toPhase h _)

theorem cFrame_execCWaitstrobe (h : ConsumerFrame flips b s) :
    NextMeets (ConsumerFrame flips b) (execCWaitstrobe s) := by
  refine cFrame_consumerStep h (.next ?_)
  split
  · exact cFrame_toPhase h _
  · exact h

theorem cFrame_execCStrobe (h : ConsumerFrame flips b s) : NextMeets (ConsumerFrame flips b) (execCStrobe s) :=
  cFrame_consumerStep h (.next { h with trace := h.emit _ })

theorem cFrame_execCNext (h : ConsumerFrame flips b s) : NextMeets (ConsumerFrame flips b) (execCNext s) := by
  refine cFrame_consumerStep h (.next ?_)
  split
  · exact { h with }
  · split
    · exact { h with }
    · exact cFrame_toPhase h _

theorem cFrame_execCFlip (hflips : s.c.flipPending = true → flips) (h : ConsumerFrame flips b s) :
    NextMeets (ConsumerFrame flips b) (execCFlip s) := by
  refine cFrame_consumerStep h (Result.nextMeets_outcome ?boundary fun _ ht => { ht with })
  split
  next hpending => exact cFrame_flipBody (hflips hpending) h
  next => exact .ok h

theorem cFrame_execTokReady (h : ConsumerFrame flips b s) : NextMeets (ConsumerFrame flips b) (execTokReady s) := by
  refine cFrame_consumerStep h ?_
  split
  · exact Result.nextMeets_outcome (cFrame_takeReady h _) fun _ ht => { ht with }
  · exact .next h

/-- The operation swaps the framebuffers: `C.FLIP` with a flip pending. -/
def FlipsFront (i : Instr) (s : State) : Prop := i = .cFlip ∧ s.c.flipPending = true

theorem cFrame_exec {i : Instr} (hi : isConsumerOp i = true) (hflips : FlipsFront i s → flips)
    (h : ConsumerFrame flips b s) : NextMeets (ConsumerFrame flips b) (exec i s) := by
  cases i with
  | cOff => exact cFrame_consumerStep h (.next h)
  | cSetbit => exact cFrame_execCSetbit h
  | cDmastart => exact cFrame_execCDmastart h
  | cPoll => exact cFrame_execCPoll h
  | cWaitdma => exact cFrame_execCWaitdma h
  | cDummy2 => exact cFrame_execCDummy2 h
  | cRedraw => exact cFrame_execCRedraw h
  | cWaitstrobe => exact cFrame_execCWaitstrobe h
  | cStrobe => exact cFrame_execCStrobe h
  | cNext => exact cFrame_execCNext h
  | cFlip => exact cFrame_execCFlip (fun hpending => hflips ⟨rfl, hpending⟩) h
  | cHalted => exact cFrame_consumerStep h (.next h)
  | sliceIdle => exact cFrame_consumerRuns h (cFrame_sliceIdleBody h) fun _ => id
  | sliceClear => exact cFrame_consumerRuns h (cFrame_sliceClearBody h) fun _ => id
  | sliceParticles => exact cFrame_consumerRuns h (cFrame_sliceParticlesBody h) fun _ => id
  | fshPollrdy => exact cFrame_consumerRuns h (cFrame_pollReady h fun _ _ => .ok) fun _ => id
  | fshSendcons => exact cFrame_consumerRuns h (cFrame_sendConsumed h) fun _ => id
  | bpdSlice => exact cFrame_consumerRuns h (cFrame_sliceBody h) fun _ => id
  | tokReady => exact cFrame_execTokReady h
  | nop | obmSet | obmClr | obmGet | obmClrall | ppeLdbg | ppeLdpart | ppeClrall | ppeIter | ppeSnap | ppeTick
  | fshSendrdy | fshWaitcons | pIdle | pScale | pSort | pAccel | pMove | pExec | pWait | pHalted | tokConsumed =>
    exact absurd hi (by decide)

end ConsumerRules

/-- Settles O55: an operation of a domain has that domain's frame (`pFrame_exec`, `cFrame_exec`). -/
theorem operationsKeepToTheirDomain : Obligations.OperationsKeepToTheirDomain := by
  intro i s t ht
  cases hi : isConsumerOp i with
  | false =>
    have h := (nextMeets_next t).mp (ht ▸ pFrame_exec hi id (.refl (LoadsCount i s) s))
    exact ⟨fun _ => h.consumer, nofun, h.geom⟩
  | true =>
    have h := (nextMeets_next t).mp (ht ▸ cFrame_exec hi id (.refl (FlipsFront i s) s))
    exact ⟨nofun, fun _ => h.producer, h.geom⟩

/-! ## What every act but reset leaves as it is -/

/-- What an act comes to once the operation it runs, if any, is executed. -/
def Fetched.outcome : Fetched → Host.Outcome State Fault Refusal
  | .run i s => exec i s
  | .done o => o

theorem step_eq_outcome (s : State) : step s = (fetch s).outcome := by
  cases h : fetch s with
  | run i t => exact step_of_run h
  | done o => exact step_of_done h

theorem NextMeets.imp {P Q : State → Prop} {o : Host.Outcome State Fault Refusal} (h : NextMeets P o)
    (hPQ : ∀ t, P t → Q t) : NextMeets Q o := by
  cases h with
  | next ht => exact .next (hPQ _ ht)
  | fault f => exact .fault f

/-- The acts that can write `count`: HOST writes `PPE.LDPART` to `P_CMD` of an idle domain, or agent `P` performs it as
the latched command under `P.EXEC`. -/
def LoadsCountBy (a : Action) (s : State) : Prop :=
  (a = .hostP (.write .word 0 0x11) ∧ Idle s) ∨ (a = .agentP ∧ s.p.pphase = 5 ∧ s.p.opc = 0x11 ∧ s.p.halt = false)

/-- The act that can write `front`: a turn of agent `C` at `C.FLIP` with a flip pending. -/
def FlipsFrontBy (a : Action) (s : State) : Prop := a = .agentC ∧ s.c.cphase = 10 ∧ s.c.flipPending = true

/-- What an act can have done to the state `b` it came in: it has the frame of one of the two domains. -/
def ActFrame (a : Action) (b t : State) : Prop :=
  ProducerFrame (LoadsCountBy a b) b t ∨ ConsumerFrame (FlipsFrontBy a b) b t

section Acts

variable {loads flips : Prop} {b s : State}

/-! ### The register ports -/

theorem pFrame_pAccessRead (h : ProducerFrame loads b s) (size : AccessSize) (off : Word) :
    ProducerFrame loads b (pAccessRead size off s) := by
  obtain ⟨t, ht, v, hread⟩ := pAccessRead_frame size off s
  rw [hread, ht]
  exact { h with }

theorem cFrame_cAccessRead (h : ConsumerFrame flips b s) (size : AccessSize) (off : Word) :
    ConsumerFrame flips b (cAccessRead size off s) := by
  obtain ⟨t, ht, v, hread⟩ := cAccessRead_frame size off s
  rw [hread, ht]
  exact { h with }

theorem pFrame_pPortWrite (h : ProducerFrame loads b s) (off v : Word) :
    ProducerFrame loads b (pPortWrite off v s) := by
  unfold pPortWrite
  split
  case h_4 =>
    split
    · exact { h with }
    · exact h
  case h_5 | h_6 =>
    split
    · exact h
    · exact { h with }
  all_goals exact { h with }

theorem pFrame_pAccessWrite (h : ProducerFrame loads b s) (size : AccessSize) (off v : Word) :
    ProducerFrame loads b (pAccessWrite size off v s) := by
  unfold pAccessWrite
  split
  · exact pFrame_pPortWrite h off v
  · exact h

theorem cFrame_cPortWrite (h : ConsumerFrame flips b s) (off v : Word) :
    ConsumerFrame flips b (cPortWrite off v s) := by
  unfold cPortWrite
  split
  case h_1 =>
    split
    · unfold enableBpd
      split
      · exact { h with }
      · exact cFrame_raiseC h _ _
    · exact h
  case h_2 | h_3 =>
    split
    · exact h
    · exact { h with }
  case h_4 => exact h

theorem cFrame_cAccess (h : ConsumerFrame flips b s) (access : BusAccess) :
    ConsumerFrame flips b (cAccess access s) := by
  cases access with
  | read size off => exact cFrame_cAccessRead h size off
  | write size off v =>
    simp only [cAccess, cAccessWrite]
    split
    · exact cFrame_cPortWrite h off v
    · exact h

/-! ### The helper agents and the synchronisers -/

theorem cFrame_dmaStep (h : ConsumerFrame flips b s) : NextMeets (ConsumerFrame flips b) (dmaStep s) := by
  unfold dmaStep
  split
  · exact .next h
  · split
    · exact .next { h with }
    · exact .fault _

theorem cFrame_shiftWord (h : ConsumerFrame flips b s) (w : Word) :
    NextMeets (ConsumerFrame flips b) (shiftWord w s) := by
  unfold shiftWord
  split
  · exact .next { h with }
  · split
    · exact .next { h with }
    · split
      · exact .next { h with }
      · exact .fault _

theorem cFrame_shStep (h : ConsumerFrame flips b s) : NextMeets (ConsumerFrame flips b) (shStep s) := by
  unfold shStep
  split
  · exact .next h
  · split
    · exact .next h
    · refine cFrame_shiftWord ?_ _
      exact { h with }

theorem cFrame_rsStep (h : ConsumerFrame flips b s) : ConsumerFrame flips b (rsStep s) := by
  unfold rsStep
  split
  · exact h
  · exact { h with }

/-! ### Every act -/

/-- The host commands are operations of the producer domain, and only the word `0x11` is `PPE.LDPART`. -/
theorem pFrame_fetchCommand {w : Word} (hloads : w = 0x11 → Idle s → loads) (h : ProducerFrame loads b s) :
    NextMeets (ProducerFrame loads b) (fetchCommand w s).outcome := by
  unfold fetchCommand
  split
  next i hi =>
    refine pFrame_exec (isConsumerOp_of_decodeCommand hi) ?_ h
    have hcode := encode_of_decodeCommand hi
    rintro (⟨rfl, hidle⟩ | ⟨rfl, -⟩)
    · exact hloads (Encoded.command.inj hcode).symm hidle
    · cases hcode
  next => exact .next (pFrame_illegalCommand h w)

theorem pFrame_fetchProducer (hloads : s.p.pphase = 5 → s.p.opc = 0x11 → s.p.halt = false → loads)
    (h : ProducerFrame loads b s) : NextMeets (ProducerFrame loads b) (fetchProducer s).outcome := by
  refine pFrame_exec (isConsumerOp_decodeProducer _) ?_ h
  have hcode := encode_decodeProducer s.p.pphase
  rintro (⟨hi, -⟩ | ⟨hi, hopc, hhalt⟩) <;> rw [hi] at hcode
  · cases hcode
  · exact hloads (Encoded.pphase.inj hcode).symm hopc hhalt

theorem cFrame_fetchConsumer (hflips : s.c.cphase = 10 → s.c.flipPending = true → flips)
    (h : ConsumerFrame flips b s) : NextMeets (ConsumerFrame flips b) (fetchConsumer s).outcome :=
  cFrame_exec (isConsumerOp_decodeConsumer _) (fun hi => hflips (decodeConsumer_eq_cFlip _ hi.1) hi.2) h

/-- A state with both frames differs from `b` in the environment only. -/
theorem actFrame_perform {a : Action} (ha : a ≠ .reset) (hp : ProducerFrame (LoadsCountBy a b) b s)
    (hc : ConsumerFrame (FlipsFrontBy a b) b s) : NextMeets (ActFrame a b) (perform a s).outcome := by
  have hidle : Idle s → Idle b := fun hs => by simpa only [Idle, hc.producer] using hs
  cases a with
  | hostP access =>
    cases access with
    | read size off => exact .next (.inl (pFrame_pAccessRead hp size off))
    | write size off v =>
      simp only [perform, fetchPAccess]
      split
      next hcmd =>
        obtain ⟨hdef, hoff⟩ := (Bool.and_eq_true _ _).mp hcmd
        obtain ⟨rfl, -⟩ := (accessDefined_iff _ _).mp hdef
        obtain rfl := eq_of_beq hoff
        refine (pFrame_fetchCommand ?_ hp).imp fun _ => .inl
        rintro rfl hs
        exact .inl ⟨rfl, hidle hs⟩
      next => exact .next (.inl (pFrame_pAccessWrite hp size off v))
  | hostC access => exact .next (.inr (cFrame_cAccess hc access))
  | hostMem address value => exact .next (.inl { hp with })
  | background x y value => exact .next (.inl { hp with })
  | reset => exact absurd rfl ha
  | agentP =>
    refine (pFrame_fetchProducer (fun hphase hopc hhalt => ?_) hp).imp fun _ => .inl
    rw [hc.producer] at hphase hopc hhalt
    exact .inr ⟨rfl, hphase, hopc, hhalt⟩
  | agentC =>
    refine (cFrame_fetchConsumer (fun hphase hpending => ?_) hc).imp fun _ => .inr
    rw [hp.consumer] at hphase hpending
    exact ⟨rfl, hphase, hpending⟩
  | agentDma => exact (cFrame_dmaStep hc).imp fun _ => .inr
  | agentSh => exact (cFrame_shStep hc).imp fun _ => .inr
  | agentRs => exact .next (.inr (cFrame_rsStep hc))
  | syncP => exact .next (.inl { hp with })
  | syncC => exact .next (.inr { hc with })

end Acts

/-- A reset advances the counter that selects the power-on contents (log 5). -/
theorem nextAction_ne_reset {s t : State} (ht : step s = .next t) (hepoch : t.env.epoch = s.env.epoch) :
    (nextAction s).1 ≠ .reset := by
  intro hreset
  have hstep : step s = .next (resetStep (nextAction s).2) :=
    step_of_done (show perform (nextAction s).1 _ = _ by rw [hreset]; rfl)
  obtain rfl : t = resetStep (nextAction s).2 := Host.Outcome.next.inj (ht.symm.trans hstep)
  have hkept := (pFrame_nextAction (.refl True s)).epoch
  change (nextAction s).2.env.epoch + 1 = s.env.epoch at hepoch
  omega

theorem actFrame_step {s t : State} (ht : step s = .next t) (hepoch : t.env.epoch = s.env.epoch) :
    ActFrame (nextAction s).1 s t := by
  have h := actFrame_perform (nextAction_ne_reset ht hepoch) (pFrame_nextAction (.refl _ s))
    (cFrame_nextAction (.refl _ s))
  exact (nextMeets_next t).mp (ht ▸ step_eq_outcome s ▸ h)

/-- Settles O54: whichever of the two frames the act has, the other domain is as it was. -/
theorem traceFrontAndCountHaveOneWriter : Obligations.TraceFrontAndCountHaveOneWriter := by
  intro s t ht hepoch
  rcases actFrame_step ht hepoch with h | h
  · exact ⟨⟨[], by rw [h.consumer, List.append_nil]⟩, fun hfront => absurd (congrArg _ h.consumer) hfront,
      h.count.resolve_right⟩
  · exact ⟨h.trace, h.front.resolve_right, fun hcount => absurd (congrArg _ h.producer) hcount⟩

/-- The bitmap is the producer's. -/
theorem bitmapClean_of_consumerFrame {flips : Prop} {s t : State} (h : ConsumerFrame flips s t)
    (hclean : BitmapClean s) : BitmapClean t := by
  intro x y hx hy
  have hbit : obmBit t x y = obmBit s x y := by simp only [obmBit, obmRow, h.producer, h.epoch]
  rw [h.geom] at hx hy
  rw [hbit, hclean x y hx hy]

/-- Settles O56: the frame of the producer domain keeps the padding bits, that of the consumer domain the bitmap. -/
theorem stepKeepsBitmapPadding : Obligations.StepKeepsBitmapPadding := by
  intro s t hwf hclean ht hepoch
  rcases actFrame_step ht hepoch with h | h
  · exact h.clean hwf hclean
  · exact bitmapClean_of_consumerFrame h hclean

/-! ## The micro-operations of `PPE.ITER`

The atomic step and the micro-operations go through the same states but for the sequencer's position. So each operation
of `iterate` is compared with itself at another position: what it does does not depend on it. -/

/-- The state with the sequencer at a position (10_state.md R25). -/
def atPosition (phase : BitVec 3) (i : BitVec 10) (s : State) : State := { s with p.pphase := phase, p.i := i }

/-- The state with the sequencer at the same cursor of another phase. -/
def atPhase (phase : BitVec 3) (s : State) : State := { s with p.pphase := phase }

/-- `PPE.ITER` is in progress over `n` particles, with the cursor at `i`. -/
structure Iterating (n : Nat) (i : BitVec 10) (s : State) : Prop where
  halt : s.p.halt = false
  count : s.p.count.toNat = n
  opc : s.p.opc = 0x13
  cursor : s.p.i = i

theorem Iterating.count_ne_zero {n : Nat} {i : BitVec 10} {s : State} (h : Iterating n i s) (hn : 0 < n) :
    s.p.count ≠ 0 := fun hzero => by
  have hcount : (0 : BitVec 10).toNat = n := hzero ▸ h.count
  exact Nat.ne_of_gt hn hcount.symm

/-- The same operation in a state and in the state at another phase: both go to their end, in states that differ in the
phase only, or both raise the same fault. Neither waits, and the model does not stop. -/
inductive SameButPhase (phase : BitVec 3) (n : Nat) (i : BitVec 10) : Result → Result → Prop
  | ok {t : State} (h : Iterating n i t) : SameButPhase phase n i (.ok t) (.ok (atPhase phase t))
  | raised {t : State} (hhalt : t.p.halt = true) (hphase : t.p.pphase = 7) :
      SameButPhase phase n i (.raised t) (.raised t)

section Refinement

variable {phase : BitVec 3} {n : Nat} {i : BitVec 10} {s : State}

/-! ### Runs of agent `P` -/

theorem producerRun_next {t : State} (m : Nat) (h : exec (decodeProducer s.p.pphase) s = .next t) :
    producerRun (m + 1) s = producerRun m t := by
  simp only [producerRun, h]

theorem producerRun_fault {f : Fault} (m : Nat) (h : exec (decodeProducer s.p.pphase) s = .fault f) :
    producerRun (m + 1) s = .fault f := by
  simp only [producerRun, h]

theorem producerStep_running (h : s.p.halt = false) (f : State → Host.Outcome State Fault Refusal) :
    producerStep f s = f s := by
  simp [producerStep, h]

/-- A halted domain stays as it is (60_exceptions.md R230). -/
theorem producerRun_halted (hhalt : s.p.halt = true) (hphase : s.p.pphase = 7) :
    ∀ m, producerRun m s = .next s
  | 0 => rfl
  | m + 1 => by
    have hstep : exec (decodeProducer s.p.pphase) s = .next s := by
      rw [hphase]
      exact if_pos hhalt
    rw [producerRun_next m hstep, producerRun_halted hhalt hphase m]

theorem withParticles_of_le (h : s.p.count.toNat ≤ capacity) (rest : State → Result) :
    withParticles s rest = rest s :=
  if_neg (by omega)

theorem withParticles_of_gt (h : capacity < s.p.count.toNat) (rest : State → Result) :
    withParticles s rest = .stop (.particleIndex capacity) :=
  if_pos h

/-! ### The scaling and the sort -/

theorem writeParts_atPosition (k : Nat) (l : List Particle) (s : State) :
    writeParts k l (atPosition phase i s) = atPosition phase i (writeParts k l s) := by
  induction l generalizing k s with
  | nil => rfl
  | cons q qs ih => exact ih (k + 1) (writePart k q s)

theorem sortOp_atPosition (s : State) : sortOp (atPosition phase i s) = atPosition phase i (sortOp s) :=
  writeParts_atPosition 0 (sortByKey _ _ (activeParts s)) { s with p.work := { s.p.work with dx := _, dy := _ } }

theorem sortIfEnabled_atPosition (s : State) :
    sortIfEnabled (atPosition phase i s) = atPosition phase i (sortIfEnabled s) := by
  have hcfg : cfgSortEn (atPosition phase i s) = cfgSortEn s := rfl
  simp only [sortIfEnabled, hcfg]
  split
  · exact sortOp_atPosition s
  · rfl

theorem iterating_writeParts (h : Iterating n i s) (k : Nat) (l : List Particle) :
    Iterating n i (writeParts k l s) := by
  induction l generalizing k s with
  | nil => exact h
  | cons q qs ih =>
    have hq : Iterating n i (writePart k q s) := { h with }
    exact ih hq (k + 1)

theorem iterating_sortIfEnabled (h : Iterating n i s) : Iterating n i (sortIfEnabled s) := by
  unfold sortIfEnabled
  split
  · refine iterating_writeParts ?_ _ _
    exact { h with }
  · exact h

/-! ### The velocity pass -/

theorem popNat_atPosition (s : State) :
    popNat (atPosition phase i s) = ((popNat s).1, atPosition phase i (popNat s).2) := by
  unfold popNat atPosition
  dsimp only
  split <;> rfl

theorem draw_atPosition (hi : Nat) (s : State) :
    draw hi (atPosition phase i s) = ((draw hi s).1, atPosition phase i (draw hi s).2) := by
  simp only [draw, popNat_atPosition]

theorem accelOp_atPosition (k : Nat) (s : State) :
    accelOp k (atPosition phase i s) = atPhase phase (accelOp k s) := by
  have hjmax : (atPosition phase i s).p.work.jmax = s.p.work.jmax := rfl
  unfold accelOp
  simp only [hjmax, draw_atPosition]
  rfl

theorem iterating_accelOp (h : Iterating n i s) (k : Nat) : Iterating n (BitVec.ofNat 10 k) (accelOp k s) where
  halt := by simp [accelOp, h.halt]
  count := by simp [accelOp, h.count]
  opc := by simp [accelOp, h.opc]
  cursor := rfl

/-! ### The motion pass -/

theorem SameButPhase.andThen {r r' : Result} {f : State → Result} (h : SameButPhase phase n i r r')
    (hf : ∀ t, Iterating n i t → SameButPhase phase n i (f t) (f (atPhase phase t))) :
    SameButPhase phase n i (r.andThen f) (r'.andThen f) := by
  cases h with
  | ok ht => exact hf _ ht
  | raised hhalt hphase => exact .raised hhalt hphase

theorem sameButPhase_obmPut (h : Iterating n i s) (v : Bool) (cx cy : Nat) :
    SameButPhase phase n i (obmPut v cx cy s) (obmPut v cx cy (atPhase phase s)) := by
  have hfield : inField (atPhase phase s) cx cy = inField s cx cy := rfl
  unfold obmPut
  rw [hfield]
  split
  · exact .ok (t := setObmRow cy (withBit (obmRow s cy) cx v) s) { h with }
  · exact .raised (t := raiseP fRange (rangeInfo cx cy) s) rfl rfl

theorem sameButPhase_obmGet (cx cy : Nat) {rest rest' : Bool → Result}
    (hrest : ∀ v, SameButPhase phase n i (rest v) (rest' v)) :
    SameButPhase phase n i (obmGet cx cy rest s) (obmGet cx cy rest' (atPhase phase s)) := by
  have hfield : inField (atPhase phase s) cx cy = inField s cx cy := rfl
  unfold obmGet
  rw [hfield]
  split
  · exact hrest _
  · exact .raised (t := raiseP fRange (rangeInfo cx cy) s) rfl rfl

theorem sameButPhase_commitMove (h : Iterating n i s) (k : Nat) (q : Particle) (m : Motion) :
    SameButPhase phase n i (commitMove k q m s) (commitMove k q m (atPhase phase s)) := by
  refine (sameButPhase_obmPut h _ _ _).andThen fun t ht => (sameButPhase_obmPut ht _ _ _).andThen fun u hu => ?_
  exact .ok (t := writePart k _ { u with p.work := _ }) { hu with }

theorem sameButPhase_resolveHit (h : Iterating n i s) (k : Nat) (q : Particle) (delta : Nat) (m : Motion) :
    SameButPhase phase n i (resolveHit k q delta m s) (resolveHit k q delta m (atPhase phase s)) := by
  have hgeom : (atPhase phase s).geom = s.geom := rfl
  unfold resolveHit
  dsimp only
  rw [hgeom]
  split
  · exact sameButPhase_commitMove h _ _ _
  · split
    · exact sameButPhase_commitMove h _ _ _
    · exact sameButPhase_obmGet _ _ fun _ => sameButPhase_obmGet _ _ fun _ => sameButPhase_commitMove h _ _ _

/-- A particle moves alike from any position of the sequencer, and the cursor is then at that particle. -/
theorem sameButPhase_moveOp (h : Iterating n i s) (k : Nat) (j : BitVec 10) :
    SameButPhase phase n (BitVec.ofNat 10 k) (moveOp k s) (moveOp k (atPosition phase j s)) := by
  unfold moveOp
  extract_lets q m oldidx newidx delta w1 p1 s1
  have h1 : Iterating n (BitVec.ofNat 10 k) s1 := { h with cursor := rfl }
  change SameButPhase phase n _ _ (if oldidx = newidx then commitMove k q m (atPhase phase s1) else
    obmGet (cellOf m.nx) (cellOf m.ny)
      (fun hit => if hit then resolveHit k q delta m (atPhase phase s1) else commitMove k q m (atPhase phase s1))
      (atPhase phase s1))
  split
  · exact sameButPhase_commitMove h1 _ _ _
  · refine sameButPhase_obmGet _ _ fun hit => ?_
    cases hit with
    | false => exact sameButPhase_commitMove h1 _ _ _
    | true => exact sameButPhase_resolveHit h1 _ _ _ _

/-! ### The turns of agent `P` -/

theorem exec_pScale (h : s.p.halt = false) : exec .pScale s = .next (atPhase 2 (scaleOp s)) := by
  change execPScale s = _
  rw [execPScale, producerStep_running h]
  rfl

theorem exec_pSort (h : s.p.halt = false) (hcap : s.p.count.toNat ≤ capacity) :
    exec .pSort s = .next (toVelocity (sortIfEnabled s)) := by
  change execPSort s = _
  rw [execPSort, producerStep_running h, withParticles_of_le hcap, Result.outcome_ok]

/-- A `count` above the capacity stops the model (log 14). -/
theorem exec_pSort_stop (h : s.p.halt = false) (hcap : capacity < s.p.count.toNat) :
    exec .pSort s = .fault (.particleIndex capacity) := by
  change execPSort s = _
  rw [execPSort, producerStep_running h, withParticles_of_gt hcap, Result.outcome_stop]

theorem exec_pAccel (h : s.p.halt = false) (hcap : s.p.count.toNat ≤ capacity) (hi : s.p.i.toNat < s.p.count.toNat) :
    exec .pAccel s = .next (afterAccel (accelOp s.p.i.toNat s)) := by
  change execPAccel s = _
  rw [execPAccel, producerStep_running h, withParticles_of_le hcap, if_pos hi, Result.outcome_ok]

theorem exec_pMove (h : s.p.halt = false) (hcap : s.p.count.toNat ≤ capacity) (hi : s.p.i.toNat < s.p.count.toNat) :
    exec .pMove s = (moveOp s.p.i.toNat s).outcome afterMove := by
  change execPMove s = _
  rw [execPMove, producerStep_running h, withParticles_of_le hcap, if_pos hi]

/-- The cursor is wide enough for every entry of the table. -/
theorem cursor_toNat {k : Nat} (hk : k < n) (hcap : n ≤ capacity) : (BitVec.ofNat 10 k).toNat = k := by
  have hcapacity : capacity = 512 := rfl
  exact Nat.mod_eq_of_lt (by omega)

theorem cursor_succ (k : Nat) : BitVec.ofNat 10 k + 1 = BitVec.ofNat 10 (k + 1) := by
  rw [← BitVec.toNat_inj]
  simp

/-- The turn of particle `k` in the velocity pass. -/
theorem exec_pAccel_at {k : Nat} (h : Iterating n i s) (hk : k < n) (hcap : n ≤ capacity) :
    exec .pAccel (atPosition 3 (BitVec.ofNat 10 k) s) = .next (afterAccel (atPhase 3 (accelOp k s))) := by
  have hcursor : (atPosition 3 (BitVec.ofNat 10 k) s).p.i.toNat = k := cursor_toNat hk hcap
  have hcount : (atPosition 3 (BitVec.ofNat 10 k) s).p.count.toNat = n := h.count
  rw [exec_pAccel (s := atPosition 3 (BitVec.ofNat 10 k) s) h.halt (by omega) (by omega), hcursor, accelOp_atPosition]

/-- The turn of particle `k` in the motion pass. -/
theorem exec_pMove_at {k : Nat} (h : Iterating n i s) (hk : k < n) (hcap : n ≤ capacity) :
    exec .pMove (atPosition 4 (BitVec.ofNat 10 k) s) =
      (moveOp k (atPosition 4 (BitVec.ofNat 10 k) s)).outcome afterMove := by
  have hcursor : (atPosition 4 (BitVec.ofNat 10 k) s).p.i.toNat = k := cursor_toNat hk hcap
  have hcount : (atPosition 4 (BitVec.ofNat 10 k) s).p.count.toNat = n := h.count
  rw [exec_pMove (s := atPosition 4 (BitVec.ofNat 10 k) s) h.halt (by omega) (by omega), hcursor]

/-- Before the last particle of a pass the cursor advances. -/
theorem afterAccel_more {k : Nat} (h : Iterating n (BitVec.ofNat 10 k) s) (hk : k + 1 < n) (hcap : n ≤ capacity) :
    afterAccel (atPhase phase s) = atPosition phase (BitVec.ofNat 10 (k + 1)) s := by
  have hcursor := cursor_toNat (k := k) (by omega) hcap
  unfold afterAccel
  rw [if_pos (by simpa only [atPhase, h.cursor, h.count, hcursor] using hk)]
  simp only [atPhase, atPosition, h.cursor, cursor_succ]

theorem afterMove_more {k : Nat} (h : Iterating n (BitVec.ofNat 10 k) s) (hk : k + 1 < n) (hcap : n ≤ capacity) :
    afterMove (atPhase phase s) = atPosition phase (BitVec.ofNat 10 (k + 1)) s := by
  have hcursor := cursor_toNat (k := k) (by omega) hcap
  unfold afterMove
  rw [if_pos (by simpa only [atPhase, h.cursor, h.count, hcursor] using hk)]
  simp only [atPhase, atPosition, h.cursor, cursor_succ]

/-- With no particle left, `PPE.ITER` is complete (10_state.md R25). -/
theorem endOfMotion_atPhase (h : Iterating n i s) : endOfMotion (atPhase phase s) = complete s := by
  have hopc : (atPhase phase s).p.opc = 0x13 := h.opc
  exact if_neg (by rw [hopc]; decide)

/-- After the last particle the velocity pass gives way to the motion pass. -/
theorem afterAccel_last {k : Nat} (h : Iterating n (BitVec.ofNat 10 k) s) (hk : k + 1 = n) (hcap : n ≤ capacity) :
    afterAccel (atPhase phase s) = atPosition 4 0 s := by
  have hcursor := cursor_toNat (k := k) (by omega) hcap
  unfold afterAccel
  rw [if_neg (by simp only [atPhase, h.cursor, h.count, hcursor]; omega)]
  exact if_neg (h.count_ne_zero (by omega))

theorem afterMove_last {k : Nat} (h : Iterating n (BitVec.ofNat 10 k) s) (hk : k + 1 = n) (hcap : n ≤ capacity) :
    afterMove (atPhase phase s) = complete s := by
  have hcursor := cursor_toNat (k := k) (by omega) hcap
  unfold afterMove
  rw [if_neg (by simp only [atPhase, h.cursor, h.count, hcursor]; omega), endOfMotion_atPhase h]

/-! ### The two passes -/

/-- The velocity pass from particle `k`: one turn for each of the `m + 1` particles that are left. -/
theorem producerRun_velocity (hcap : n ≤ capacity) (turns : Nat) :
    ∀ (m k : Nat) (i : BitVec 10) (s : State), Iterating n i s → k + (m + 1) = n →
      producerRun (turns + (m + 1)) (atPosition 3 (BitVec.ofNat 10 k) s) =
        producerRun turns (atPosition 4 0 ((List.range' k (m + 1)).foldl (fun t k => accelOp k t) s))
  | 0, k, i, s, h, hk => by
    have hstep := exec_pAccel_at h (k := k) (by omega) hcap
    rw [afterAccel_last (iterating_accelOp h k) (by omega) hcap] at hstep
    exact producerRun_next (s := atPosition 3 _ s) turns hstep
  | m + 1, k, i, s, h, hk => by
    have hnext := iterating_accelOp h k
    have hstep := exec_pAccel_at h (k := k) (by omega) hcap
    rw [afterAccel_more hnext (by omega) hcap] at hstep
    exact (producerRun_next (s := atPosition 3 _ s) (turns + (m + 1)) hstep).trans
      (producerRun_velocity hcap turns m (k + 1) _ _ hnext (by omega))

/-- The motion pass from particle `k`: to the completion of the command, or to the first fault, in which the domain
then stays. -/
theorem producerRun_motion (hcap : n ≤ capacity) :
    ∀ (m k : Nat) (i : BitVec 10) (s : State), Iterating n i s → k + (m + 1) = n →
      producerRun (m + 1) (atPosition 4 (BitVec.ofNat 10 k) s) =
        (runEach moveOp (List.range' k (m + 1)) s).outcome complete
  | m, k, i, s, h, hk => by
    have hstep := exec_pMove_at h (k := k) (by omega) hcap
    have hsame := sameButPhase_moveOp (phase := 4) h k (BitVec.ofNat 10 k)
    rw [List.range'_succ, runEach_cons]
    generalize moveOp k s = r, moveOp k (atPosition 4 (BitVec.ofNat 10 k) s) = r' at hstep hsame ⊢
    cases hsame with
    | raised hhalt hphase =>
      exact (producerRun_next (s := atPosition 4 _ s) m hstep).trans (producerRun_halted hhalt hphase m)
    | @ok t ht =>
      rw [Result.outcome_ok] at hstep
      cases m with
      | zero =>
        rw [afterMove_last ht (by omega) hcap] at hstep
        exact producerRun_next (s := atPosition 4 _ s) 0 hstep
      | succ m =>
        rw [afterMove_more ht (by omega) hcap] at hstep
        exact (producerRun_next (s := atPosition 4 _ s) (m + 1) hstep).trans
          (producerRun_motion hcap m (k + 1) _ t ht (by omega))

theorem iterating_foldl_accelOp (h : Iterating n i s) (l : List Nat) :
    ∃ j, Iterating n j (l.foldl (fun t k => accelOp k t) s) :=
  List.foldlRecOn (motive := fun t => ∃ j, Iterating n j t) l _ ⟨i, h⟩ fun _ ⟨_, ht⟩ k _ => ⟨_, iterating_accelOp ht k⟩

/-- Both passes, which are skipped when there is no particle. -/
theorem producerRun_passes (h : Iterating n i s) (hcap : n ≤ capacity) :
    producerRun (2 * n) (toVelocity (atPosition 2 0 s)) = (moveAll (accelAll s)).outcome complete := by
  obtain ⟨j, haccel⟩ := iterating_foldl_accelOp h (List.range s.p.count.toNat)
  change Iterating n j (accelAll s) at haccel
  unfold moveAll
  rw [haccel.count]
  cases n with
  | zero =>
    have hzero : s.p.count = 0 := BitVec.eq_of_toNat_eq h.count
    have hnone : accelAll s = s := by simp [accelAll, h.count]
    rw [hnone]
    have hdone : toVelocity (atPosition 2 0 s) = complete s := (if_pos hzero).trans
      (endOfMotion_atPhase (phase := 2) (s := atPosition 2 0 s) { h with cursor := rfl })
    exact congrArg _ hdone
  | succ m =>
    have hturns : 2 * (m + 1) = (m + 1) + (m + 1) := by omega
    have hvel : toVelocity (atPosition 2 0 s) = atPosition 3 0 s :=
      if_neg (h.count_ne_zero (Nat.succ_pos m))
    rw [hvel, hturns, List.range_eq_range']
    refine (producerRun_velocity hcap (m + 1) m 0 i s h (by omega)).trans ?_
    rw [accelAll, h.count, List.range_eq_range'] at haccel ⊢
    exact producerRun_motion hcap m 0 j _ haccel (by omega)

end Refinement

/-- Settles O32: two turns for the scaling and the sort, then the two passes (`producerRun_passes`); a `count` above the
capacity stops the model alike in both. -/
theorem microOperationsRefineIterate : Obligations.MicroOperationsRefineIterate := by
  intro s hidle hinflight
  have hscaled : Iterating s.p.count.toNat 0 (scaleOp (accept 0x13 s)) := ⟨hidle.1, rfl, rfl, rfl⟩
  have hatomic : exec .ppeIter s = (iterate (accept 0x13 s)).outcome complete := by
    refine (command_idle 0x13 bodyPpeIter hidle).trans ?_
    rw [bodyPpeIter, gated, if_neg (by simp [hinflight])]
  have hscale : exec (decodeProducer 1) { accept 0x13 s with p.pphase := 1 } =
      .next (atPosition 2 0 (scaleOp (accept 0x13 s))) :=
    exec_pScale (s := { accept 0x13 s with p.pphase := 1 }) hidle.1
  rw [hatomic, producerRun_next _ hscale, iterate]
  by_cases hcap : s.p.count.toNat ≤ capacity
  · have hsort := exec_pSort (s := atPosition 2 0 (scaleOp (accept 0x13 s))) hidle.1 hcap
    rw [sortIfEnabled_atPosition] at hsort
    rw [withParticles_of_le (s := accept 0x13 s) hcap]
    exact (producerRun_next (s := atPosition 2 0 _) _ hsort).trans
      (producerRun_passes (iterating_sortIfEnabled hscaled) hcap)
  · have hcap := Nat.lt_of_not_le hcap
    have hsort := exec_pSort_stop (s := atPosition 2 0 (scaleOp (accept 0x13 s))) hidle.1 hcap
    rw [withParticles_of_gt (s := accept 0x13 s) hcap, Result.outcome_stop]
    exact producerRun_fault (s := atPosition 2 0 _) _ hsort

end Sys2Proof.Machine

/-! Proofs of the family `20_memory.md`: under the machine invariant no step of the model stops (O50). The model can
stop at a pass over more entries than the particle table has, at a staged particle past the staging table, at a CLEAR
slice below the matrix, at a transferred word past the framebuffer, and at a lower pixel with no upper one. The lemma
about each of these operations cites the clause of `Inv` that excludes the stop; every other operation goes on in every
state, and the rules for sequencing and for the frames of an operation pass the fact on. -/

namespace Sys2Proof.Machine

open Sys2Proof.Config

/-! ## Operations and outcomes without a stop -/

/-- The operation comes to its end, to a wait or to a fatal fault of the block: the model does not stop in it. -/
inductive Result.Continues : Result → Prop
  | ok (s : State) : Result.Continues (.ok s)
  | pending (s : State) : Result.Continues (.pending s)
  | raised (s : State) : Result.Continues (.raised s)

/-- The outcome is a next state. -/
def Answers (o : Host.Outcome State Fault Refusal) : Prop := ∃ t, o = .next t

theorem answers_next (s : State) : Answers (.next s) := ⟨s, rfl⟩

theorem Result.continues_andThen {r : Result} {f : State → Result} (hr : r.Continues)
    (hf : ∀ t, r = .ok t → (f t).Continues) : (r.andThen f).Continues := by
  cases hr with
  | ok t => exact hf t rfl
  | pending t => exact .pending t
  | raised t => exact .raised t

theorem Result.answers_outcome {r : Result} (hr : r.Continues) (done : State → State) : Answers (r.outcome done) := by
  cases hr with
  | ok t => exact answers_next (done t)
  | pending t => exact answers_next t
  | raised t => exact answers_next t

theorem continues_runEach {op : Nat → State → Result} {l : List Nat} (hop : ∀ k ∈ l, ∀ s, (op k s).Continues)
    (s : State) : (runEach op l s).Continues := by
  induction l generalizing s with
  | nil => exact .ok s
  | cons k ks ih =>
    obtain ⟨hk, hks⟩ := List.forall_mem_cons.mp hop
    exact Result.continues_andThen (hk s) fun t _ => ih hks t

section NoStop

variable {s : State}

/-! ## One rule per shared operation and per frame of an operation -/

theorem continues_obmPut (b : Bool) (cx cy : Nat) (s : State) : (obmPut b cx cy s).Continues := by
  obtain ⟨-, e⟩ | ⟨-, e⟩ := obmPut_cases b cx cy s <;> rw [e]
  · exact .ok _
  · exact .raised _

theorem continues_obmGet (cx cy : Nat) {rest : Bool → Result} (hrest : ∀ b, (rest b).Continues) (s : State) :
    (obmGet cx cy rest s).Continues := by
  obtain ⟨-, e⟩ | ⟨-, e⟩ := obmGet_cases cx cy rest s <;> rw [e]
  · exact hrest _
  · exact .raised _

theorem continues_takeConsumed (w : Word) (s : State) : (takeConsumed w s).Continues := by
  obtain ⟨-, e⟩ | ⟨-, e⟩ := takeConsumed_cases w s <;> rw [e]
  · exact .ok _
  · exact .raised _

theorem continues_takeReady (w : Word) (s : State) : (takeReady w s).Continues := by
  obtain ⟨-, e⟩ | ⟨-, e⟩ := takeReady_cases w s <;> rw [e]
  · exact .ok _
  · exact .raised _

theorem continues_sendConsumed (s : State) : (sendConsumed s).Continues := by
  obtain ⟨-, e⟩ | ⟨-, e⟩ := sendConsumed_cases s <;> rw [e]
  · exact .raised _
  · exact .ok _

theorem continues_gated (opc : BitVec 8) {body : State → Result} (hbody : (body s).Continues) :
    (gated opc body s).Continues := by
  obtain ⟨-, e⟩ | ⟨-, e⟩ := gated_cases opc body s <;> rw [e]
  · exact .raised _
  · exact hbody

/-- The particle table holds every active entry (10_state.md R28). -/
theorem continues_withParticles (h : Inv s) {rest : State → Result} (hrest : (rest s).Continues) :
    (withParticles s rest).Continues := by
  rw [withParticles_of_le h.count]
  exact hrest

theorem answers_command (h : Inv s) (opc : BitVec 8) {body : State → Result}
    (hbody : ∀ t, Inv t → (body t).Continues) : Answers (command opc body s) := by
  obtain ⟨-, e⟩ | ⟨-, -, e⟩ | ⟨-, e⟩ := command_cases opc body s <;> rw [e]
  · exact answers_next _
  · exact answers_next _
  · exact Result.answers_outcome (hbody _ (inv_accept h opc)) complete

theorem answers_producerStep {f : State → Host.Outcome State Fault Refusal} (hf : Answers (f s)) :
    Answers (producerStep f s) := by
  obtain ⟨-, e⟩ | ⟨-, e⟩ := producerStep_cases f s <;> rw [e]
  · exact answers_next s
  · exact hf

theorem answers_consumerStep {f : State → Host.Outcome State Fault Refusal} (hf : Answers (f s)) :
    Answers (consumerStep f s) := by
  obtain ⟨-, e⟩ | ⟨-, e⟩ := consumerStep_cases f s <;> rw [e]
  · exact answers_next s
  · exact hf

/-- A turn that performs a pseudocode and then `done`. -/
theorem answers_producerRuns {body : State → Result} (hbody : (body s).Continues) (done : State → State) :
    Answers (producerStep (fun s => (body s).outcome done) s) :=
  answers_producerStep (Result.answers_outcome hbody done)

theorem answers_consumerRuns {body : State → Result} (hbody : (body s).Continues) (done : State → State) :
    Answers (consumerStep (fun s => (body s).outcome done) s) :=
  answers_consumerStep (Result.answers_outcome hbody done)

/-- A turn without a pseudocode goes to its next state. -/
theorem answers_producerMoves (f : State → State) (s : State) : Answers (producerStep (fun s => .next (f s)) s) :=
  answers_producerStep (answers_next _)

theorem answers_consumerMoves (f : State → State) (s : State) : Answers (consumerStep (fun s => .next (f s)) s) :=
  answers_consumerStep (answers_next _)

/-! ## The host commands of the bitmap and the loads -/

theorem continues_bodyObmGet (s : State) : (bodyObmGet s).Continues := continues_obmGet _ _ (fun _ => .ok _) s

theorem continues_bodyPpeLdbg (s : State) : (bodyPpeLdbg s).Continues := by
  unfold bodyPpeLdbg
  split
  · exact .ok _
  · exact .raised _

theorem continues_loadTriple (base : Word) (k : Nat) (s : State) : (loadTriple base k s).Continues := by
  unfold loadTriple
  extract_lets rx ry rc cx cy
  split
  · exact continues_obmPut _ _ _ _
  · exact .raised _

theorem continues_bodyPpeLdpart (s : State) : (bodyPpeLdpart s).Continues := by
  unfold bodyPpeLdpart
  split
  · exact .raised _
  · split
    · exact Result.continues_andThen (continues_runEach (fun k _ => continues_loadTriple _ k) s) fun _ _ => .ok _
    · exact .raised _

/-! ## The engine -/

theorem continues_commitMove (k : Nat) (q : Particle) (m : Motion) (s : State) : (commitMove k q m s).Continues :=
  Result.continues_andThen (continues_obmPut _ _ _ s) fun t _ =>
    Result.continues_andThen (continues_obmPut _ _ _ t) fun _ _ => .ok _

theorem continues_resolveHit (k : Nat) (q : Particle) (delta : Nat) (m : Motion) (s : State) :
    (resolveHit k q delta m s).Continues := by
  unfold resolveHit
  dsimp only
  split
  · exact continues_commitMove _ _ _ s
  · split
    · exact continues_commitMove _ _ _ s
    · exact continues_obmGet _ _ (fun _ => continues_obmGet _ _ (fun _ => continues_commitMove _ _ _ s) s) s

theorem continues_moveOp (k : Nat) (s : State) : (moveOp k s).Continues := by
  unfold moveOp
  extract_lets q m oldidx newidx delta w1 p1 s1
  split
  · exact continues_commitMove _ _ _ s1
  · refine continues_obmGet _ _ (fun hit => ?_) s1
    cases hit with
    | false => exact continues_commitMove _ _ _ s1
    | true => exact continues_resolveHit _ _ _ _ s1

theorem continues_iterate (h : Inv s) : (iterate s).Continues :=
  continues_withParticles h (continues_runEach (fun k _ => continues_moveOp k) _)

theorem continues_snapshot (h : Inv s) : (snapshot s).Continues := continues_withParticles h (.ok _)

theorem continues_bodyPpeIter (h : Inv s) : (bodyPpeIter s).Continues := continues_gated _ (continues_iterate h)

theorem continues_bodyPpeSnap (h : Inv s) : (bodyPpeSnap s).Continues := continues_gated _ (continues_snapshot h)

/-! ## The producer half of the handshake, and the tick -/

theorem continues_sendOrWait (s : State) : (sendOrWait s).Continues := by
  unfold sendOrWait
  split
  · exact .pending _
  · exact .ok _

theorem continues_bodyFshSendrdy (s : State) : (bodyFshSendrdy s).Continues :=
  continues_gated _ (continues_sendOrWait s)

theorem continues_waitConsumed (s : State) : (waitConsumed s).Continues := by
  unfold waitConsumed
  split
  · split
    · exact continues_takeConsumed _ s
    · exact .pending _
  · exact .ok _

theorem continues_tickAfterWait (s : State) : (tickAfterWait s).Continues := .pending _

theorem continues_snapAndSend (h : Inv s) : (snapAndSend s).Continues :=
  Result.continues_andThen (continues_bodyPpeSnap h) fun t _ => continues_bodyFshSendrdy t

/-- The snapshot at the end of a tick finds the table that `PPE.ITER` left, which meets the invariant. -/
theorem continues_bodyPpeTick (h : Inv s) : (bodyPpeTick s).Continues := by
  unfold bodyPpeTick
  split
  · exact Result.continues_andThen (continues_waitConsumed s) fun t _ => continues_tickAfterWait t
  · have hstart : Inv { s with p.lastTimeout := false } := { h with }
    refine Result.continues_andThen (continues_bodyPpeIter hstart) fun t ht => ?_
    have hmoved : Inv t := ((Result.meets_iff _).mp (inv_bodyPpeIter hstart)).1 t ht
    exact continues_snapAndSend { hmoved with }

theorem continues_inProgress (h : Inv s) : (inProgress s).Continues := by
  unfold inProgress
  split
  next => exact continues_obmPut _ _ _ s
  next => exact continues_obmPut _ _ _ s
  next => exact continues_bodyObmGet s
  next => exact .ok _
  next => exact continues_bodyPpeLdbg s
  next => exact continues_bodyPpeLdpart s
  next => exact .ok _
  next => exact continues_bodyPpeIter h
  next => exact continues_bodyPpeSnap h
  next => exact continues_snapAndSend h
  next => exact continues_bodyFshSendrdy s
  next => exact continues_waitConsumed s
  next => exact .ok _
  next => exact .raised _

theorem continues_waitEdge (s : State) : (waitEdge s).Continues := by
  unfold waitEdge
  split
  · refine Result.continues_andThen (continues_takeConsumed _ s) fun t _ => ?_
    split
    · exact continues_tickAfterWait t
    · exact .ok t
  · split
    · exact .ok _
    · exact .pending _

theorem continues_waitStep (s : State) : (waitStep s).Continues := by
  unfold waitStep
  split
  · exact continues_waitEdge s
  · split
    · exact continues_sendOrWait s
    · exact continues_waitConsumed s

theorem answers_execPSort (h : Inv s) : Answers (execPSort s) := by
  refine answers_producerRuns (continues_withParticles h ?_) toVelocity
  exact .ok _

theorem answers_execPAccel (h : Inv s) : Answers (execPAccel s) := by
  refine answers_producerRuns (continues_withParticles h ?_) afterAccel
  exact .ok _

theorem answers_execPMove (h : Inv s) : Answers (execPMove s) := by
  refine answers_producerRuns (continues_withParticles h ?_) afterMove
  split
  · exact continues_moveOp _ s
  · exact .ok s

theorem answers_execTokConsumed (s : State) : Answers (execTokConsumed s) := by
  refine answers_producerStep ?_
  split
  · exact Result.answers_outcome (continues_takeConsumed _ s) id
  · exact answers_next s

/-! ## The redraw slices -/

theorem continues_sliceIdleBody (s : State) : (sliceIdleBody s).Continues := .ok _

/-- A row of the matrix has words in the framebuffer (20_memory.md R61). -/
theorem continues_sliceClearBody (hrow : s.c.rowCursor.toNat < s.geom.size) : (sliceClearBody s).Continues := by
  rw [sliceClearBody, if_pos hrow]
  exact .ok _

theorem continues_drawStaged {k : Nat} (hk : k < capacity) (s : State) : (drawStaged k s).Continues := by
  rw [drawStaged, if_pos hk]
  dsimp only
  split
  · exact .raised _
  · exact .ok _

/-- A chunk ends at `stg_count` at the latest (43_bpd.md R193). -/
theorem chunk_index_lt_stgCount {j : Nat} (hj : j < (chunkLength s).toNat) :
    s.c.partCursor.toNat + j < s.p.stgCount.toNat := by
  have hchunk : chunkLength s ≤ (s.p.stgCount.toNat : Int) - (s.c.partCursor.toNat : Int) := min_le_right _ _
  omega

/-- The staging table holds every entry below `stg_count` (20_memory.md R62). -/
theorem continues_sliceParticlesBody (h : Inv s) : (sliceParticlesBody s).Continues := by
  refine Result.continues_andThen (continues_runEach (fun k hk => continues_drawStaged ?_) s) fun _ _ => .ok _
  obtain ⟨j, hj, rfl⟩ := List.mem_map.mp hk
  exact lt_of_lt_of_le (chunk_index_lt_stgCount (List.mem_range.mp hj)) h.staged

theorem eq_one_of_decodeSlice_sliceClear : ∀ code, decodeSlice code = .ok .sliceClear → code = 1 := by decide

theorem continues_sliceBody (h : Inv s) : (sliceBody s).Continues := by
  unfold sliceBody
  split
  next hclear => exact continues_sliceClearBody (h.rowCursor (eq_one_of_decodeSlice_sliceClear _ hclear))
  next => exact continues_sliceParticlesBody h
  next => exact .ok _
  next => exact .raised _

/-! ## The consumer micro-operations -/

theorem continues_pollReady {rest : Bool → State → Result} (hrest : ∀ b t, (rest b t).Continues) (s : State) :
    (pollReady rest s).Continues := by
  unfold pollReady
  split
  · exact Result.continues_andThen (continues_takeReady _ s) fun t _ => hrest true t
  · exact hrest false s

theorem continues_flipBody (s : State) : (flipBody s).Continues :=
  Result.continues_andThen (continues_sendConsumed _) fun _ _ => .ok _

theorem answers_execCRedraw (h : Inv s) : Answers (execCRedraw s) := by
  refine answers_consumerStep ?_
  split
  · split
    · exact Result.answers_outcome (continues_sliceBody (inv_choose h)) id
    · exact answers_next _
  · exact answers_next _

theorem answers_execCFlip (s : State) : Answers (execCFlip s) := by
  refine answers_consumerRuns ?_ _
  split
  · exact continues_flipBody s
  · exact .ok s

theorem answers_execTokReady (s : State) : Answers (execTokReady s) := by
  refine answers_consumerStep ?_
  split
  · exact Result.answers_outcome (continues_takeReady _ s) _
  · exact answers_next s

/-! ## Every operation that an act runs -/

/-- The CLEAR slice alone is left out: no carrier of an act selects it, and outside a redraw its cursor is free. -/
theorem answers_exec {i : Instr} (hi : i ≠ .sliceClear) (h : Inv s) : Answers (exec i s) := by
  cases i with
  | nop => exact answers_command h _ fun t _ => .ok t
  | obmSet => exact answers_command h _ fun t _ => continues_obmPut _ _ _ t
  | obmClr => exact answers_command h _ fun t _ => continues_obmPut _ _ _ t
  | obmGet => exact answers_command h _ fun t _ => continues_bodyObmGet t
  | obmClrall => exact answers_command h _ fun _ _ => .ok _
  | ppeLdbg => exact answers_command h _ fun t _ => continues_bodyPpeLdbg t
  | ppeLdpart => exact answers_command h _ fun t _ => continues_bodyPpeLdpart t
  | ppeClrall => exact answers_command h _ fun _ _ => .ok _
  | ppeIter => exact answers_command h _ fun _ => continues_bodyPpeIter
  | ppeSnap => exact answers_command h _ fun _ => continues_bodyPpeSnap
  | ppeTick => exact answers_command h _ fun _ => continues_bodyPpeTick
  | fshSendrdy => exact answers_command h _ fun t _ => continues_bodyFshSendrdy t
  | fshWaitcons => exact answers_command h _ fun t _ => continues_waitConsumed t
  | cOff | cSetbit | cDmastart | cWaitdma | cDummy2 | cWaitstrobe | cStrobe | cNext | cHalted =>
    apply answers_consumerMoves
  | cPoll => exact answers_consumerRuns (continues_pollReady (fun _ _ => .ok _) s) _
  | cRedraw => exact answers_execCRedraw h
  | cFlip => exact answers_execCFlip s
  | pIdle | pScale | pHalted => apply answers_producerMoves
  | pSort => exact answers_execPSort h
  | pAccel => exact answers_execPAccel h
  | pMove => exact answers_execPMove h
  | pExec => exact answers_producerRuns (continues_inProgress h) _
  | pWait => exact answers_producerRuns (continues_waitStep s) _
  | sliceIdle => exact answers_consumerRuns (continues_sliceIdleBody s) _
  | sliceClear => exact absurd rfl hi
  | sliceParticles => exact answers_consumerRuns (continues_sliceParticlesBody h) _
  | fshPollrdy => exact answers_consumerRuns (continues_pollReady (fun _ t => .ok t) s) _
  | fshSendcons => exact answers_consumerRuns (continues_sendConsumed s) _
  | bpdSlice => exact answers_consumerRuns (continues_sliceBody h) _
  | tokReady => exact answers_execTokReady s
  | tokConsumed => exact answers_execTokConsumed s

theorem ne_sliceClear_of_isConsumerOp {i : Instr} (h : isConsumerOp i = false) : i ≠ .sliceClear := by
  rintro rfl
  cases h

theorem decodeConsumer_ne_sliceClear : ∀ code, decodeConsumer code ≠ .sliceClear := by decide

/-! ## The helper agents -/

/-- A running transfer has a word left, and ends inside the framebuffer (10_state.md R51). -/
theorem answers_dmaStep (h : Inv s) : Answers (dmaStep s) := by
  unfold dmaStep
  split
  next => exact answers_next s
  next hrunning =>
    obtain ⟨-, hbusy⟩ : s.c.halt = false ∧ s.c.dmaBusy = true := by simpa using hrunning
    obtain ⟨hrem, hend⟩ := h.dma hbusy
    have hword : s.c.dmaIdx.toNat < fbWords s := by omega
    rw [if_pos hword]
    exact answers_next _

/-- When a lower pixel is due the upper one is held (43_bpd.md R200). -/
theorem answers_shiftWord (h : Inv s) (w : Word) : Answers (shiftWord w s) := by
  unfold shiftWord
  split
  next => exact answers_next _
  next hpixel =>
    split
    next => exact answers_next _
    next hlower =>
      obtain ⟨u, hu⟩ := Option.isSome_iff_exists.mp (h.held (by omega) (by omega))
      rw [hu]
      exact answers_next _

theorem answers_shStep (h : Inv s) : Answers (shStep s) := by
  unfold shStep
  split
  · exact answers_next s
  · split
    · exact answers_next s
    next w rest _ =>
      have hpopped : Inv { s with c.shFifo := rest } := { h with }
      exact answers_shiftWord hpopped w

/-! ## Every act -/

theorem answers_fetchCommand (h : Inv s) (w : Word) : Answers (fetchCommand w s).outcome := by
  unfold fetchCommand
  split
  next hi => exact answers_exec (ne_sliceClear_of_isConsumerOp (isConsumerOp_of_decodeCommand hi)) h
  next => exact answers_next _

theorem answers_fetchPAccess (h : Inv s) (access : BusAccess) : Answers (fetchPAccess access s).outcome := by
  cases access with
  | read size offset => exact answers_next _
  | write size offset value =>
    unfold fetchPAccess
    dsimp only
    split
    · exact answers_fetchCommand h value
    · exact answers_next _

theorem answers_perform (a : Action) (h : Inv s) : Answers (perform a s).outcome := by
  cases a with
  | hostP access => exact answers_fetchPAccess h access
  | hostC access => exact answers_next _
  | hostMem address value => exact answers_next _
  | background x y value => exact answers_next _
  | reset => exact answers_next _
  | agentP => exact answers_exec (ne_sliceClear_of_isConsumerOp (isConsumerOp_decodeProducer _)) h
  | agentC => exact answers_exec (decodeConsumer_ne_sliceClear _) h
  | agentDma => exact answers_dmaStep h
  | agentSh => exact answers_shStep h
  | agentRs => exact answers_next _
  | syncP => exact answers_next _
  | syncC => exact answers_next _

end NoStop

/-- Settles O50: taking the next act from the list keeps the invariant, and under it no act stops
(`answers_perform`). -/
theorem invariantExcludesModelStops : Obligations.InvariantExcludesModelStops := by
  intro s h
  rw [step_eq_outcome]
  exact answers_perform _ (inv_nextAction h)

end Sys2Proof.Machine

/-! Proofs of the family `30_encoding.md`: decode and encode agree on every word of every carrier (O1, O2), and each
token is taken by its receiver (O41). That a code of its own decodes to its operation is the table of
`Laws.DecodeEncode`; the converse goes by the carrier: an accepted word is in a row of its map, and each row holds the
code of its operation. -/

namespace Sys2Proof.Laws.DecodeEncode

/-- The statement of every operation, from its own lemma. -/
theorem statement (i : Instr) : Statement i :=
  match i with
  | .nop => nop
  | .obmSet => obmSet
  | .obmClr => obmClr
  | .obmGet => obmGet
  | .obmClrall => obmClrall
  | .ppeLdbg => ppeLdbg
  | .ppeLdpart => ppeLdpart
  | .ppeClrall => ppeClrall
  | .ppeIter => ppeIter
  | .ppeSnap => ppeSnap
  | .ppeTick => ppeTick
  | .fshSendrdy => fshSendrdy
  | .fshWaitcons => fshWaitcons
  | .cOff => cOff
  | .cSetbit => cSetbit
  | .cDmastart => cDmastart
  | .cPoll => cPoll
  | .cWaitdma => cWaitdma
  | .cDummy2 => cDummy2
  | .cRedraw => cRedraw
  | .cWaitstrobe => cWaitstrobe
  | .cStrobe => cStrobe
  | .cNext => cNext
  | .cFlip => cFlip
  | .cHalted => cHalted
  | .pIdle => pIdle
  | .pScale => pScale
  | .pSort => pSort
  | .pAccel => pAccel
  | .pMove => pMove
  | .pExec => pExec
  | .pWait => pWait
  | .pHalted => pHalted
  | .sliceIdle => sliceIdle
  | .sliceClear => sliceClear
  | .sliceParticles => sliceParticles
  | .fshPollrdy => fshPollrdy
  | .fshSendcons => fshSendcons
  | .bpdSlice => bpdSlice
  | .tokReady => tokReady
  | .tokConsumed => tokConsumed

end Sys2Proof.Laws.DecodeEncode

namespace Sys2Proof.Machine

/-! ## Decode and encode -/

/-- An operation has a code of its own exactly when that code decodes to it (30_encoding.md R90). -/
theorem decode_encode_iff (i : Instr) : decode (encode i) = .ok i ↔ i.wf = true := by
  obtain ⟨j, hdecode, hwf, -, hself⟩ := Laws.DecodeEncode.statement i
  constructor
  · intro h
    obtain rfl : j = i := Except.ok.inj (hdecode.symm.trans h)
    exact hwf
  · intro h
    rw [hdecode, hself h]

theorem decodeSlice_row {code : BitVec 2} {i : Instr} (h : decodeSlice code = .ok i) : (code, i) ∈ sliceRows := by
  unfold decodeSlice at h
  split at h
  next hrow =>
    cases h
    obtain ⟨_, _, hrows, -⟩ := List.lookup_eq_some_iff.mp hrow
    exact hrows ▸ by simp
  next => cases h

/-- A listed slice code is the code of the operation it decodes to (R104). -/
theorem encode_of_decodeSlice {code : BitVec 2} {i : Instr} (h : decodeSlice code = .ok i) :
    encode i = .rstate code := by
  have hrows : ∀ row ∈ sliceRows, encode row.2 = .rstate row.1 := by decide
  exact hrows _ (decodeSlice_row h)

/-- The codes 12 to 15, beyond those of the map, are `C.HALTED` too (R95, R97). -/
theorem decodeConsumer_unlisted : ∀ code : BitVec 4, 12 ≤ code.toNat → decodeConsumer code = .cHalted := by decide

theorem encode_decodeConsumer :
    ∀ code : BitVec 4, code.toNat < 12 → encode (decodeConsumer code) = .cphase code := by decide

theorem encode_of_decodeToken_ready {w : Word} {i : Instr} (h : decodeToken true w = .ok i) : encode i = .p2c w := by
  rw [decodeToken_ready] at h
  split at h
  next hword => cases h; rw [hword]; rfl
  next => cases h

theorem encode_of_decodeToken_consumed {w : Word} {i : Instr} (h : decodeToken false w = .ok i) :
    encode i = .c2p w := by
  rw [decodeToken_consumed] at h
  split at h
  next hword => cases h; rw [hword]; rfl
  next => cases h

/-- A word that decodes is the code of its operation, or one of the codes of `C.HALTED` beyond those of the map. -/
theorem encode_of_decode {e : Encoded} {i : Instr} (h : decode e = .ok i) :
    encode i = e ∨ (i = .cHalted ∧ ∃ code : BitVec 4, e = .cphase code ∧ 12 ≤ code.toNat) := by
  cases e with
  | command word => exact .inl (encode_of_decodeCommand h)
  | pphase code => cases h; exact .inl (encode_decodeProducer code)
  | cphase code =>
    cases h
    obtain hlisted | hunlisted := Nat.lt_or_ge code.toNat 12
    · exact .inl (encode_decodeConsumer code hlisted)
    · exact .inr ⟨decodeConsumer_unlisted code hunlisted, code, rfl, hunlisted⟩
  | rstate code => exact .inl (encode_of_decodeSlice h)
  | p2c word => exact .inl (encode_of_decodeToken_ready h)
  | c2p word => exact .inl (encode_of_decodeToken_consumed h)

/-- Settles O1: a word that decodes is the code of its operation (`encode_of_decode`), and a code of its own decodes to
its operation (`decode_encode_iff`). -/
theorem decodeInvertsEncode : Obligations.DecodeInvertsEncode := by
  intro e i
  constructor
  · intro h
    obtain rfl | ⟨rfl, hcode⟩ := encode_of_decode h
    · exact ⟨(decode_encode_iff i).mp h, .inl rfl⟩
    · exact ⟨rfl, .inr ⟨rfl, hcode⟩⟩
  · rintro ⟨hwf, rfl | ⟨rfl, code, rfl, hunlisted⟩⟩
    · exact (decode_encode_iff i).mpr hwf
    · exact congrArg Except.ok (decodeConsumer_unlisted code hunlisted)

/-- Settles O2: the accepted words are the codes of their operations, but for the unlisted `C.HALTED`; the rejected ones
are evaluated. -/
theorem specWordsDecode : Obligations.SpecWordsDecode := by
  refine ⟨(decode_encode_iff .obmClr).mpr rfl, (decode_encode_iff .ppeIter).mpr rfl,
    (decode_encode_iff .fshWaitcons).mpr rfl, (decode_encode_iff .pAccel).mpr rfl,
    (decode_encode_iff .cFlip).mpr rfl, congrArg Except.ok (decodeConsumer_unlisted 14 (by decide)),
    (decode_encode_iff .sliceParticles).mpr rfl, (decode_encode_iff .tokReady).mpr rfl,
    (decode_encode_iff .tokConsumed).mpr rfl, ?reserved, ?opcode, ?slice, ?wrongP2c, ?wrongC2p⟩
  case reserved => decide
  case opcode => decide
  case slice => decide
  case wrongP2c => decide
  case wrongC2p => decide

/-! ## The receipt of a token -/

section Tokens

variable {s : State}

theorem consumerStep_running (h : s.c.halt = false) (f : State → Host.Outcome State Fault Refusal) :
    consumerStep f s = f s := by
  simp [consumerStep, h]

/-- With nothing to do a turn changes nothing, halted or not. -/
theorem producerStep_of_next {f : State → Host.Outcome State Fault Refusal} (h : f s = .next s) :
    producerStep f s = .next s := by
  obtain ⟨-, hstep⟩ | ⟨-, hstep⟩ := producerStep_cases f s
  · exact hstep
  · exact hstep.trans h

theorem consumerStep_of_next {f : State → Host.Outcome State Fault Refusal} (h : f s = .next s) :
    consumerStep f s = .next s := by
  obtain ⟨-, hstep⟩ | ⟨-, hstep⟩ := consumerStep_cases f s
  · exact hstep
  · exact hstep.trans h

/-- The token of the channel passes the receiver's check (42_fsh.md R172). -/
theorem takeReady_tokReadyWord (s : State) :
    takeReady tokReadyWord s = .ok { s with c.p2cAck := !s.c.p2cAck } := by
  obtain ⟨-, htake⟩ | ⟨hne, -⟩ := takeReady_cases tokReadyWord s
  · exact htake
  · exact absurd rfl hne

theorem takeConsumed_tokConsumedWord (s : State) :
    takeConsumed tokConsumedWord s =
      .ok { s with p.c2pAck := !s.p.c2pAck, p.inflight := false, p.lastTimeout := false } := by
  obtain ⟨-, htake⟩ | ⟨hne, -⟩ := takeConsumed_cases tokConsumedWord s
  · exact htake
  · exact absurd rfl hne

theorem execTokReady_visible (hrun : s.c.halt = false) (htoken : p2cAvail s = true) :
    execTokReady s = .next { s with c.p2cAck := !s.c.p2cAck, c.redrawPending := true } := by
  rw [execTokReady, consumerStep_running hrun, if_pos htoken, takeReady_tokReadyWord]
  rfl

theorem execTokReady_nothing (htoken : p2cAvail s = false) : execTokReady s = .next s :=
  consumerStep_of_next (by simp [htoken])

theorem execTokConsumed_visible (hrun : s.p.halt = false) (htoken : c2pAvail s = true) :
    execTokConsumed s = .next { s with
      p.c2pAck := !s.p.c2pAck, p.inflight := false, p.lastTimeout := false } := by
  rw [execTokConsumed, producerStep_running hrun, if_pos htoken, takeConsumed_tokConsumedWord]
  rfl

theorem execTokConsumed_nothing (htoken : c2pAvail s = false) : execTokConsumed s = .next s :=
  producerStep_of_next (by simp [htoken])

end Tokens

/-- Settles O41, one lemma for each channel and each case of the slot. -/
theorem tokensAreTakenByTheirReceivers : Obligations.TokensAreTakenByTheirReceivers := fun _ =>
  ⟨execTokReady_visible, execTokReady_nothing, execTokConsumed_visible, execTokConsumed_nothing⟩

end Sys2Proof.Machine

/-! Proofs of the family `40_obm.md`: setting and clearing one bit (O7), reading one bit (O8), clearing the field (O9).
Each command is `command_idle` (acceptance, pseudocode, completion) around one primitive of the bitmap, and each
primitive has an equation inside the field and one outside it (40_obm.md R114). -/

namespace Sys2Proof.Machine

open Sys2Proof.Config

/-! ## The primitives inside and outside the field -/

section Primitives

variable {s : State} {cx cy : Nat}

theorem inField_eq_false_iff (s : State) (cx cy : Nat) : inField s cx cy = false ↔ s.geom.w ≤ cx ∨ s.geom.h ≤ cy := by
  rw [← Bool.not_eq_true, inField_iff]
  omega

theorem obmPut_inside (b : Bool) (hx : cx < s.geom.w) (hy : cy < s.geom.h) :
    obmPut b cx cy s = .ok (setObmRow cy (withBit (obmRow s cy) cx b) s) :=
  if_pos ((inField_iff s cx cy).mpr ⟨hx, hy⟩)

theorem obmPut_outside (b : Bool) (h : s.geom.w ≤ cx ∨ s.geom.h ≤ cy) :
    obmPut b cx cy s = .raised (raiseP fRange (rangeInfo cx cy) s) := by
  simp [obmPut, (inField_eq_false_iff s cx cy).mpr h]

theorem obmGet_inside (rest : Bool → Result) (hx : cx < s.geom.w) (hy : cy < s.geom.h) :
    obmGet cx cy rest s = rest (obmBit s cx cy) :=
  if_pos ((inField_iff s cx cy).mpr ⟨hx, hy⟩)

theorem obmGet_outside (rest : Bool → Result) (h : s.geom.w ≤ cx ∨ s.geom.h ≤ cy) :
    obmGet cx cy rest s = .raised (raiseP fRange (rangeInfo cx cy) s) := by
  simp [obmGet, (inField_eq_false_iff s cx cy).mpr h]

/-- The bitmap is at most as wide as a row word (00_scope.md R6). -/
theorem geom_w_le (h : s.geom.wf = true) : s.geom.w ≤ 32 := by
  simp only [Geometry.wf, decide_eq_true_eq] at h
  exact h.2.1

end Primitives

theorem ofNat_toNat_eq_low12 (w : Word) : BitVec.ofNat 12 w.toNat = w.extractLsb' 0 12 := by
  apply BitVec.eq_of_toNat_eq
  simp

/-- The `INFO` of `F_RANGE`, from the operand registers: the low 12 bits of both (R114). -/
theorem rangeInfo_toNat (x y : Word) : rangeInfo x.toNat y.toNat = y.extractLsb' 0 12 ++ x.extractLsb' 0 12 := by
  simp only [rangeInfo, ofNat_toNat_eq_low12]

theorem zeroExtend_ofBool (b : Bool) : (BitVec.ofBool b).zeroExtend 32 = if b then (1 : Word) else 0 := by
  cases b <;> rfl

/-! ## The frame of a command around the primitives -/

section Commands

variable {s : State} (opc : BitVec 8)

/-- A pseudocode that goes to its end: the command completes. -/
theorem command_of_ok {body : State → Result} {t : State} (hidle : Idle s) (hbody : body (accept opc s) = .ok t) :
    command opc body s = .next (complete t) := by
  rw [command_idle opc body hidle, hbody, Result.outcome_ok]

/-- A pseudocode that raises at once: the command is accepted and faults, and does nothing else. -/
theorem command_of_raised {body : State → Result} {code : BitVec 8} {info : BitVec 24} (hidle : Idle s)
    (hbody : body (accept opc s) = .raised (raiseP code info (accept opc s))) :
    command opc body s = .next (faultedCommand opc code info s) := by
  rw [command_idle opc body hidle, hbody, Result.outcome_raised, raiseP_accept]

/-- A command that writes one bit, the cell in the field: that bit is written, nothing else of the bitmap or the state
(R111, R112). -/
theorem command_obmPut_inside (b : Bool) (hidle : Idle s) (hwf : s.geom.wf = true) (hx : s.p.arg0.toNat < s.geom.w)
    (hy : s.p.arg1.toNat < s.geom.h) :
    ∃ t, command opc (fun s => obmPut b (opCx s) (opCy s) s) s = .next t ∧
      t = { ranCommand opc s with p.obm := t.p.obm } ∧
      ∀ x y, obmBit t x y = if x = s.p.arg0.toNat ∧ y = s.p.arg1.toNat then b else obmBit s x y := by
  have hput := obmPut_inside (s := accept opc s) b hx hy
  have hcolumn : s.p.arg0.toNat < 32 := hx.trans_le (geom_w_le hwf)
  exact ⟨_, command_of_ok opc hidle hput, rfl, obmBit_setBit (accept opc s) _ _ b hcolumn⟩

theorem command_obmPut_outside (b : Bool) (hidle : Idle s)
    (hout : s.geom.w ≤ s.p.arg0.toNat ∨ s.geom.h ≤ s.p.arg1.toNat) :
    command opc (fun s => obmPut b (opCx s) (opCy s) s) s =
      .next (faultedCommand opc 4 (s.p.arg1.extractLsb' 0 12 ++ s.p.arg0.extractLsb' 0 12) s) := by
  rw [← rangeInfo_toNat]
  exact command_of_raised opc hidle (obmPut_outside (s := accept opc s) b hout)

/-- A command that clears the bitmap (R113, 41_ppe.md R125). -/
theorem command_obmClearAll (hidle : Idle s) :
    ∃ t, command opc (fun s => .ok (obmClearAll s)) s = .next t ∧ t = { ranCommand opc s with p.obm := t.p.obm } ∧
      ∀ y, obmRow t y = if y < s.geom.h then 0 else obmRow s y := by
  obtain ⟨hrows, hframe⟩ := obmClearAll_spec (accept opc s)
  exact ⟨_, command_of_ok opc hidle rfl, congrArg complete hframe, hrows⟩

end Commands

/-! ## The commands of the bitmap as frames around the primitives -/

theorem exec_obmSet (s : State) : exec .obmSet s = command 0x01 (fun s => obmPut true (opCx s) (opCy s) s) s := rfl

theorem exec_obmClr (s : State) : exec .obmClr s = command 0x02 (fun s => obmPut false (opCx s) (opCy s) s) s := rfl

theorem exec_obmGet (s : State) : exec .obmGet s = command 0x03 bodyObmGet s := rfl

theorem exec_obmClrall (s : State) : exec .obmClrall s = command 0x04 (fun s => .ok (obmClearAll s)) s := rfl

theorem exec_ppeClrall (s : State) : exec .ppeClrall s = command 0x12 (fun s => .ok (obmClearAll s)) s := rfl

theorem exec_obmGet_inside {s : State} (hidle : Idle s) (hx : s.p.arg0.toNat < s.geom.w)
    (hy : s.p.arg1.toNat < s.geom.h) :
    exec .obmGet s = .next { ranCommand 0x03 s with
      p.result := if obmBit s s.p.arg0.toNat s.p.arg1.toNat then 1 else 0 } := by
  have hget : bodyObmGet (accept 0x03 s) = .ok { accept 0x03 s with
      p.result := (BitVec.ofBool (obmBit s s.p.arg0.toNat s.p.arg1.toNat)).zeroExtend 32 } := obmGet_inside _ hx hy
  rw [exec_obmGet, ← zeroExtend_ofBool]
  exact command_of_ok 0x03 hidle hget

theorem exec_obmGet_outside {s : State} (hidle : Idle s)
    (hout : s.geom.w ≤ s.p.arg0.toNat ∨ s.geom.h ≤ s.p.arg1.toNat) :
    exec .obmGet s =
      .next (faultedCommand 0x03 4 (s.p.arg1.extractLsb' 0 12 ++ s.p.arg0.extractLsb' 0 12) s) := by
  rw [exec_obmGet, ← rangeInfo_toNat]
  exact command_of_raised 0x03 hidle (obmGet_outside (s := accept 0x03 s) _ hout)

/-- The primitive in both its cases, for whatever operation called it (R110, R114). -/
theorem obmGet_eq_ite (s : State) (cx cy : Nat) (rest : Bool → Result) :
    obmGet cx cy rest s =
      if cx < s.geom.w ∧ cy < s.geom.h then rest (obmBit s cx cy)
      else .raised (raiseP 4 (BitVec.ofNat 12 cy ++ BitVec.ofNat 12 cx) s) := by
  split
  next hin => exact obmGet_inside rest hin.1 hin.2
  next hout => exact obmGet_outside rest (by omega)

/-! ## The obligations -/

/-- Settles O7: both commands are the frame around `obmPut`, in the field and outside it. -/
theorem setAndClearWriteOneBit : Obligations.SetAndClearWriteOneBit := by
  refine ⟨(decode_encode_iff .obmSet).mpr rfl, (decode_encode_iff .obmClr).mpr rfl, fun s hidle hwf => ⟨?_, ?_⟩⟩
  · rintro ⟨hx, hy⟩
    rw [exec_obmSet, exec_obmClr]
    exact ⟨command_obmPut_inside 0x01 true hidle hwf hx hy, command_obmPut_inside 0x02 false hidle hwf hx hy⟩
  · intro hout
    rw [exec_obmSet, exec_obmClr]
    exact ⟨command_obmPut_outside 0x01 true hidle hout, command_obmPut_outside 0x02 false hidle hout⟩

/-- Settles O8: the command in the field and outside it, then the primitive. -/
theorem getReadsOneBit : Obligations.GetReadsOneBit :=
  ⟨(decode_encode_iff .obmGet).mpr rfl,
    fun _ hidle => ⟨fun ⟨hx, hy⟩ => exec_obmGet_inside hidle hx hy, exec_obmGet_outside hidle⟩, obmGet_eq_ite⟩

/-- Settles O9: both commands are the frame around `obmClearAll`. -/
theorem clearAllZeroesTheBitmap : Obligations.ClearAllZeroesTheBitmap := by
  refine ⟨(decode_encode_iff .obmClrall).mpr rfl, (decode_encode_iff .ppeClrall).mpr rfl, fun s hidle => ?_⟩
  rw [exec_obmClrall, exec_ppeClrall]
  exact ⟨command_obmClearAll 0x04 hidle, command_obmClearAll 0x12 hidle⟩

end Sys2Proof.Machine

/-! Proofs of the family `41_ppe.md`, the arithmetic: the bounce (O58), the speed clamp (O59), the scaling (O25) and the
sort direction (O27). -/

namespace Sys2Proof.Machine

open Sys2Proof.Config

/-! ## The bounce (41_ppe.md R122) -/

section Bounce

variable (e : Nat) (v : Int)

theorem natAbs_bounce : (bounce e v).natAbs = v.natAbs * e / 256 := by
  simp only [bounce, tdiv, Int.natAbs_tdiv, Int.natAbs_mul, Int.natAbs_neg, Int.natAbs_natCast]
  rfl

theorem bounce_neg : bounce e (-v) = -bounce e v := by
  simp only [bounce, tdiv, Int.neg_mul, Int.neg_tdiv, neg_neg]

theorem bounce_nonpos (h : 0 ≤ v) : bounce e v ≤ 0 := by
  have hopposite : 0 ≤ tdiv (v * e) 256 := Int.tdiv_nonneg (by positivity) (by norm_num)
  have hneg : bounce e v = -tdiv (v * e) 256 := by simp only [bounce, tdiv, Int.neg_mul, Int.neg_tdiv]
  omega

theorem bounce_nonneg (h : v ≤ 0) : 0 ≤ bounce e v := by
  have hopposite := bounce_nonpos e (-v) (by omega)
  rw [bounce_neg] at hopposite
  omega

/-- An elasticity is a byte, below the divisor (10_state.md R26). -/
theorem natAbs_bounce_mul_le {e : Nat} (he : e ≤ 255) : (bounce e v).natAbs * 256 ≤ v.natAbs * 255 := by
  rw [natAbs_bounce]
  exact (Nat.div_mul_le_self _ _).trans (Nat.mul_le_mul_left _ he)

theorem natAbs_bounce_le {e : Nat} (he : e ≤ 255) : (bounce e v).natAbs ≤ v.natAbs := by
  have hshrink := natAbs_bounce_mul_le v he
  omega

end Bounce

/-- Settles O58, the magnitude from `natAbs_bounce`, the sign from the numerator of the division. -/
theorem bounceReversesAndShrinks : Obligations.BounceReversesAndShrinks := by
  intro e v he
  have hshrink := natAbs_bounce_mul_le v he
  refine ⟨rfl, natAbs_bounce e v, hshrink, fun hv => ?_, fun hv => bounce_nonpos e v hv.le,
    fun hv => bounce_nonneg e v hv.le, ?_, fun hsmall => ?_, bounce_neg e v⟩
  · have hpos := Int.natAbs_pos.mpr hv
    omega
  · simp [bounce, tdiv]
  · rw [← Int.natAbs_eq_zero, natAbs_bounce, Nat.div_eq_of_lt hsmall]

/-! ## The integer root (00_scope.md R10) -/

/-- With `b` bits to go the root is between `acc` and `acc + 2 ^ b`. -/
theorem isqrtFrom_spec (n : Nat) : ∀ b acc : Nat, acc * acc ≤ n → n < (acc + 2 ^ b) * (acc + 2 ^ b) →
    isqrtFrom n b acc * isqrtFrom n b acc ≤ n ∧ n < (isqrtFrom n b acc + 1) * (isqrtFrom n b acc + 1)
  | 0, _, hle, hlt => ⟨hle, hlt⟩
  | b + 1, acc, hle, hlt => by
    rw [isqrtFrom]
    split
    next hbit =>
      refine isqrtFrom_spec n b _ hbit ?_
      rwa [add_assoc, ← Nat.two_mul, ← Nat.pow_succ']
    next hbit => exact isqrtFrom_spec n b acc hle (Nat.lt_of_not_le hbit)

theorem isqrt_spec (n : Nat) : isqrt n * isqrt n ≤ n ∧ n < (isqrt n + 1) * (isqrt n + 1) := by
  refine isqrtFrom_spec n _ 0 (Nat.zero_le n) ?_
  rw [Nat.zero_add, ← Nat.pow_add]
  exact Nat.lt_log2_self.trans_le (Nat.pow_le_pow_right (by norm_num) (by omega))

/-! ## The speed clamp (41_ppe.md R132) -/

theorem sgn_mul_natAbs_sgn_mul (v : Int) (k : Nat) : sgn v * ((sgn v * (k : Int)).natAbs : Int) = sgn v * k := by
  unfold sgn
  split
  · simp
  · split <;> simp

/-- A rescaled component has the sign of the component it was, or is 0. -/
theorem rescale_eq_sgn_mul (v v2 : Int) : rescale v v2 = sgn v * ((rescale v v2).natAbs : Int) :=
  (sgn_mul_natAbs_sgn_mul v _).symm

theorem natAbs_rescale {v : Int} (hv : v ≠ 0) (v2 : Int) :
    (rescale v v2).natAbs = isqrt (65536 * (v * v) / v2).toNat := by
  unfold rescale sgn
  split
  · simp
  · simp

/-- The magnitude of a rescaled component is the largest `k` with `k * k * v2 ≤ 65536 * v * v`. -/
theorem rescale_bounds (v : Int) {v2 : Int} (hv2 : 0 < v2) :
    ((rescale v v2).natAbs : Int) * (rescale v v2).natAbs * v2 ≤ 65536 * (v * v) ∧
      65536 * (v * v) < (((rescale v v2).natAbs : Int) + 1) * ((rescale v v2).natAbs + 1) * v2 := by
  by_cases hv : v = 0
  · subst hv
    simpa [rescale, sgn] using hv2
  · obtain ⟨hle, hlt⟩ := isqrt_spec (65536 * (v * v) / v2).toNat
    rw [natAbs_rescale hv]
    generalize isqrt (65536 * (v * v) / v2).toNat = k at hle hlt ⊢
    have hquot : 0 ≤ 65536 * (v * v) / v2 := Int.ediv_nonneg (by nlinarith [mul_self_nonneg v]) hv2.le
    have hle' : (k : Int) * k ≤ 65536 * (v * v) / v2 := by
      rw [← Int.toNat_of_nonneg hquot]
      exact_mod_cast hle
    have hlt' : 65536 * (v * v) / v2 < ((k : Int) + 1) * (k + 1) := by
      rw [← Int.toNat_of_nonneg hquot]
      exact_mod_cast hlt
    exact ⟨(Int.le_ediv_iff_mul_le hv2).mp hle', (Int.ediv_lt_iff_lt_mul hv2).mp hlt'⟩

theorem clampSpeed_of_le {vx vy : Int} (h : vx * vx + vy * vy ≤ 65536) : clampSpeed vx vy = (vx, vy) :=
  if_neg (by omega)

theorem clampSpeed_of_gt {vx vy : Int} (h : 65536 < vx * vx + vy * vy) :
    clampSpeed vx vy = (rescale vx (vx * vx + vy * vy), rescale vy (vx * vx + vy * vy)) :=
  if_pos h

/-- The two magnitudes that are at most in proportion to the components stay within the bound together. -/
theorem clampSpeed_sq_le (vx vy : Int) :
    (clampSpeed vx vy).1 * (clampSpeed vx vy).1 + (clampSpeed vx vy).2 * (clampSpeed vx vy).2 ≤ 65536 := by
  by_cases h : vx * vx + vy * vy ≤ 65536
  · simpa [clampSpeed_of_le h] using h
  · rw [clampSpeed_of_gt (by omega)]
    dsimp only
    generalize hv2 : vx * vx + vy * vy = v2 at h ⊢
    have hx := (rescale_bounds vx (v2 := v2) (by omega)).1
    have hy := (rescale_bounds vy (v2 := v2) (by omega)).1
    rw [Int.natAbs_mul_self'] at hx hy
    have hsum : (rescale vx v2 * rescale vx v2 + rescale vy v2 * rescale vy v2) * v2 ≤ 65536 * v2 := by
      rw [add_mul]
      linarith
    exact Int.le_of_mul_le_mul_right hsum (by omega)

/-- A component of a velocity within the speed bound is at most one cell. -/
theorem abs_le_of_sq_add_sq_le {a b : Int} (h : a * a + b * b ≤ 65536) : |a| ≤ 256 ∧ |b| ≤ 256 :=
  ⟨abs_le_of_sq_le_sq (by nlinarith [sq_nonneg b]) (by norm_num),
    abs_le_of_sq_le_sq (by nlinarith [sq_nonneg a]) (by norm_num)⟩

theorem clampSpeed_abs_le (vx vy : Int) : |(clampSpeed vx vy).1| ≤ 256 ∧ |(clampSpeed vx vy).2| ≤ 256 :=
  abs_le_of_sq_add_sq_le (clampSpeed_sq_le vx vy)

/-- Settles O59: each component by `rescale_bounds`, the result by `clampSpeed_sq_le`. -/
theorem speedClampIsExact : Obligations.SpeedClampIsExact := by
  intro vx vy v2 r
  refine ⟨clampSpeed_of_le, fun hfast => ?_, (clampSpeed_abs_le vx vy).1, (clampSpeed_abs_le vx vy).2,
    clampSpeed_sq_le vx vy⟩
  have hpos : 0 < v2 := by omega
  have hr : r = (rescale vx v2, rescale vy v2) := clampSpeed_of_gt hfast
  rw [hr]
  obtain ⟨hxle, hxlt⟩ := rescale_bounds vx hpos
  obtain ⟨hyle, hylt⟩ := rescale_bounds vy hpos
  exact ⟨rescale_eq_sgn_mul vx v2, rescale_eq_sgn_mul vy v2, hxle, hxlt, hyle, hylt⟩

/-! ## The scaling (41_ppe.md R128) -/

/-- The result of `P.SCALE`: an inverted magnitude clamped into 1..5. -/
theorem jitterHalf_eq (az1 : Nat) : (jitterHalf az1 : Int) = max 1 (5 - (az1 : Int)) := by
  unfold jitterHalf
  split <;> omega

/-- Division toward zero keeps a value between bounds that are multiples of the divisor. -/
theorem tdiv_between {n d lo hi : Int} (hd : 0 < d) (hlo : lo ≤ 0) (hhi : 0 ≤ hi) (hn : lo * d ≤ n)
    (hn' : n < (hi + 1) * d) : lo ≤ Int.tdiv n d ∧ Int.tdiv n d ≤ hi := by
  rcases le_or_gt 0 n with hpos | hneg
  · rw [Int.tdiv_eq_ediv_of_nonneg hpos]
    have hquot : 0 ≤ n / d := Int.ediv_nonneg hpos hd.le
    have hlt := (Int.ediv_lt_iff_lt_mul hd).mpr hn'
    omega
  · have hopposite : Int.tdiv n d = -((-n) / d) := by
      rw [← Int.tdiv_eq_ediv_of_nonneg (by omega), Int.neg_tdiv, neg_neg]
    have hquot : 0 ≤ (-n) / d := Int.ediv_nonneg (by omega) hd.le
    have hle : (-n) / d < -lo + 1 := by
      rw [Int.ediv_lt_iff_lt_mul hd]
      nlinarith
    omega

/-- A 16-bit tilt times `SCALE`. -/
theorem tilt_mul_scale_bounds (x : BitVec 16) (scale : BitVec 8) :
    -(32768 * 255) ≤ x.toInt * (scale.toNat : Int) ∧ x.toInt * (scale.toNat : Int) ≤ 32767 * 255 := by
  have hscale : (scale.toNat : Int) ≤ 255 := by
    have := scale.isLt
    omega
  have hlow := BitVec.le_toInt x
  have hhigh := BitVec.toInt_lt (x := x)
  norm_num at hlow hhigh
  constructor <;> nlinarith [Int.natCast_nonneg scale.toNat]

/-- Settles O25: the ranges are the products' bounds divided, the state is `exec_pScale`. -/
theorem scaleFollowsTheFormula : Obligations.ScaleFollowsTheFormula := by
  refine ⟨(decode_encode_iff .pScale).mpr rfl, fun s hrun => ?_⟩
  intro scale ax1 ay1 az1 az2
  obtain ⟨hax, hax'⟩ := tilt_mul_scale_bounds (s.p.x0.extractLsb' 0 16) (s.p.cfg.extractLsb' 0 8)
  obtain ⟨hay, hay'⟩ := tilt_mul_scale_bounds (s.p.x1.extractLsb' 0 16) (s.p.cfg.extractLsb' 0 8)
  obtain ⟨haz, haz'⟩ := tilt_mul_scale_bounds (s.p.x2.extractLsb' 0 16) (s.p.cfg.extractLsb' 0 8)
  obtain ⟨hx, hx'⟩ : -32640 ≤ ax1 ∧ ax1 ≤ 32639 :=
    tdiv_between (by norm_num) (by norm_num) (by norm_num) (by linarith) (by linarith)
  obtain ⟨hy, hy'⟩ : -32640 ≤ ay1 ∧ ay1 ≤ 32639 :=
    tdiv_between (by norm_num) (by norm_num) (by norm_num) (by linarith) (by linarith)
  have hz : az1 ≤ 4080 := by
    have := tdiv_between (d := 2048) (lo := -4080) (hi := 4080) (by norm_num) (by norm_num) (by norm_num)
      (by linarith) (by linarith : (s.p.x2.extractLsb' 0 16).toInt * scale < _)
    omega
  have hhalf : (jitterHalf (scaledAz (cfgScale s) (opAz s)) : Int) = az2 := jitterHalf_eq _
  refine ⟨hx, hx', hy, hy', hz, le_max_left _ _, by omega, ?_⟩
  rw [exec_pScale hrun]
  have htwo : (2 * az2).toNat = 2 * jitterHalf (scaledAz (cfgScale s) (opAz s)) := by omega
  rw [htwo, ← hhalf, Int.toNat_natCast]
  rfl

/-! ## The sort direction (41_ppe.md R129) -/

/-- The part of a component along its own sign is its magnitude. -/
theorem mul_sgn_eq_abs (v : Int) : v * sgn v = |v| := by
  unfold sgn
  rcases lt_trichotomy v 0 with h | h | h
  · simp [h, abs_of_neg h]
  · simp [h]
  · simp [h.ne', not_lt.mpr h.le, abs_of_pos h]

theorem sgn_eq_one_or_neg_one {v : Int} (hv : v ≠ 0) : sgn v = 1 ∨ sgn v = -1 := by
  unfold sgn
  split
  · exact .inr rfl
  · exact .inl rfl

/-- Everything the choice of the direction can come to, for an acceleration that is not zero. -/
theorem sortDirection_cases {ax ay : Int} (h : ax ≠ 0 ∨ ay ≠ 0) :
    (ax ≠ 0 ∧ (|ax| + |ay|) * (|ax| + |ay|) ≤ 2 * (|ax| * |ax|) ∧ sortDirection ax ay = (sgn ax, 0)) ∨
    (ay ≠ 0 ∧ (|ax| + |ay|) * (|ax| + |ay|) ≤ 2 * (|ay| * |ay|) ∧ sortDirection ax ay = (0, sgn ay)) ∨
    (ax ≠ 0 ∧ ay ≠ 0 ∧ 2 * (|ax| * |ax|) ≤ (|ax| + |ay|) * (|ax| + |ay|) ∧
      2 * (|ay| * |ay|) ≤ (|ax| + |ay|) * (|ax| + |ay|) ∧ sortDirection ax ay = (sgn ax, sgn ay)) := by
  have hzero : ¬(|ax| = 0 ∧ |ay| = 0) := by
    simp only [abs_eq_zero]
    omega
  have hsum : 0 < (|ax| + |ay|) * (|ax| + |ay|) := by
    have := abs_nonneg ax
    have := abs_nonneg ay
    have : 0 < |ax| + |ay| := by omega
    positivity
  simp only [sortDirection, if_neg hzero, mul_assoc]
  split
  next hx =>
    refine .inl ⟨?_, hx.le, rfl⟩
    rintro rfl
    simp at hx
    nlinarith
  next hx =>
    split
    next hy =>
      refine .inr (.inl ⟨?_, hy.le, rfl⟩)
      rintro rfl
      simp at hy
      nlinarith
    next hy =>
      refine .inr (.inr ⟨?_, ?_, not_lt.mp hx, not_lt.mp hy, rfl⟩)
      · rintro rfl
        have hpos := mul_self_pos.mpr (h.resolve_left (by simp))
        simp at hy
        omega
      · rintro rfl
        have hpos := mul_self_pos.mpr (h.resolve_right (by simp))
        simp at hx
        omega

/-- The choice is not worse than the two axes and the diagonal, each taken along the signs of the acceleration. (Of
the directions of one kind, those signs give the largest inner product: `dot_mul_self_le`.) -/
theorem sortDirection_optimal {ax ay : Int} (h : ax ≠ 0 ∨ ay ≠ 0) :
    let d := sortDirection ax ay
    let dot := ax * d.1 + ay * d.2
    let norm := d.1 * d.1 + d.2 * d.2
    0 < dot ∧ (|ax| * |ax|) * norm ≤ dot * dot ∧ (|ay| * |ay|) * norm ≤ dot * dot ∧
      (|ax| + |ay|) * (|ax| + |ay|) * norm ≤ dot * dot * 2 := by
  have hx := abs_nonneg ax
  have hy := abs_nonneg ay
  obtain ⟨hax, hle, e⟩ | ⟨hay, hle, e⟩ | ⟨hax, hay, hlex, hley, e⟩ := sortDirection_cases h
  · have hpos := abs_pos.mpr hax
    have hnorm := mul_self_eq_one_iff.mpr (sgn_eq_one_or_neg_one hax)
    simp only [e, mul_sgn_eq_abs, hnorm, mul_zero, add_zero]
    exact ⟨hpos, by linarith, by nlinarith, by linarith⟩
  · have hpos := abs_pos.mpr hay
    have hnorm := mul_self_eq_one_iff.mpr (sgn_eq_one_or_neg_one hay)
    simp only [e, mul_sgn_eq_abs, hnorm, mul_zero, zero_add]
    exact ⟨hpos, by nlinarith, by linarith, by linarith⟩
  · have hpos := abs_pos.mpr hax
    have hnormx := mul_self_eq_one_iff.mpr (sgn_eq_one_or_neg_one hax)
    have hnormy := mul_self_eq_one_iff.mpr (sgn_eq_one_or_neg_one hay)
    simp only [e, mul_sgn_eq_abs, hnormx, hnormy]
    exact ⟨by linarith, by linarith, by linarith, by linarith⟩

/-- The inner product with a direction, against the magnitudes. -/
theorem dot_mul_self_le (ax ay x y : Int) :
    (ax * x + ay * y) * (ax * x + ay * y) ≤ (|ax| * |x| + |ay| * |y|) * (|ax| * |x| + |ay| * |y|) := by
  rw [← abs_mul, ← abs_mul]
  exact mul_self_le_mul_self_of_le_of_neg_le ((le_abs_self _).trans (abs_add_le _ _))
    ((neg_le_abs _).trans (abs_add_le _ _))

/-- The eight directions: the pairs of signs that are not both 0. -/
def directions : List (Int × Int) := [(1, 0), (-1, 0), (0, 1), (0, -1), (1, 1), (1, -1), (-1, 1), (-1, -1)]

theorem sortDirection_mem {ax ay : Int} (h : ax ≠ 0 ∨ ay ≠ 0) : sortDirection ax ay ∈ directions := by
  unfold directions
  obtain ⟨hax, -, e⟩ | ⟨hay, -, e⟩ | ⟨hax, hay, -, -, e⟩ := sortDirection_cases h <;> rw [e]
  · rcases sgn_eq_one_or_neg_one hax with hx | hx <;> simp [hx]
  · rcases sgn_eq_one_or_neg_one hay with hy | hy <;> simp [hy]
  · rcases sgn_eq_one_or_neg_one hax with hx | hx <;> rcases sgn_eq_one_or_neg_one hay with hy | hy <;> simp [hx, hy]

/-- The magnitudes of the components of a direction: along one axis, or along both. -/
theorem abs_of_mem_directions {e : Int × Int} (he : e ∈ directions) :
    (|e.1| = 1 ∧ |e.2| = 0) ∨ (|e.1| = 0 ∧ |e.2| = 1) ∨ (|e.1| = 1 ∧ |e.2| = 1) := by
  revert e
  decide

/-- Settles O27: by `sortDirection_optimal` the choice beats each of the three kinds of direction. -/
theorem sortDirectionIsNearest : Obligations.SortDirectionIsNearest := by
  refine ⟨by decide, fun ax ay h => ?_⟩
  intro dirs dot norm
  obtain ⟨hpos, hxaxis, hyaxis, hdiagonal⟩ := sortDirection_optimal h
  refine ⟨sortDirection_mem h, hpos, fun e he => .inr ?_⟩
  have hnorm : 0 ≤ norm (sortDirection ax ay) := add_nonneg (mul_self_nonneg _) (mul_self_nonneg _)
  refine (mul_le_mul_of_nonneg_right (dot_mul_self_le ax ay e.1 e.2) hnorm).trans ?_
  have hsquares : norm e = |e.1| * |e.1| + |e.2| * |e.2| := by simp only [abs_mul_abs_self, norm]
  rw [hsquares]
  obtain ⟨hx, hy⟩ | ⟨hx, hy⟩ | ⟨hx, hy⟩ := abs_of_mem_directions he
  · simpa only [hx, hy, mul_one, mul_zero, add_zero] using hxaxis
  · simpa only [hx, hy, mul_one, mul_zero, zero_add] using hyaxis
  · simpa only [hx, hy, mul_one, one_add_one_eq_two] using hdiagonal

end Sys2Proof.Machine

/-! Proofs of the family `41_ppe.md`, the commands without the engine: `NOP` (O6), the resting phases (O24), the snapshot
and the send of a tick (O18, O20, O31) and the loads (O10, O12, O13). -/

namespace Sys2Proof.Machine

open Sys2Proof.Config

/-! ## Commands and phases with nothing to do (41_ppe.md R142, R120) -/

/-- Settles O6: the pseudocode between acceptance and completion is empty. -/
theorem nopOnlyRuns : Obligations.NopOnlyRuns := fun s hidle =>
  (command_of_ok (s := s) 0x00 (body := bodyNop) hidle rfl).trans (by rw [complete_accept])

/-- Settles O24: none of the four has anything to do, halted or not. -/
theorem restingPhasesHaveNoStep : Obligations.RestingPhasesHaveNoStep := fun _ =>
  ⟨producerStep_of_next rfl, producerStep_of_next rfl, consumerStep_of_next rfl, consumerStep_of_next rfl⟩

/-! ## A tick with a frame in flight (41_ppe.md R140, 42_fsh.md R164) -/

section Handshake

variable {s : State}

theorem gated_open (opc : BitVec 8) (body : State → Result) (h : s.p.inflight = false) : gated opc body s = body s := by
  simp [gated, h]

theorem waitConsumed_empty (hflight : s.p.inflight = true) (hnone : c2pAvail s = false) :
    waitConsumed s = .pending (waiting s) := by
  simp [waitConsumed, hflight, hnone]

theorem waitConsumed_visible (hflight : s.p.inflight = true) (htoken : c2pAvail s = true) :
    waitConsumed s = takeConsumed s.c.c2pData s := by
  simp [waitConsumed, hflight, htoken]

theorem takeConsumed_bad {w : Word} (h : w ≠ tokConsumedWord) :
    takeConsumed w s = .raised (raiseP fBadtoken (info24 w) { s with p.c2pAck := !s.p.c2pAck }) := by
  obtain ⟨hw, -⟩ | ⟨-, e⟩ := takeConsumed_cases w s
  · exact absurd hw h
  · exact e

theorem bodyPpeTick_inflight (h : s.p.inflight = true) :
    bodyPpeTick s = (waitConsumed s).andThen tickAfterWait :=
  if_pos h

end Handshake

/-- Settles O20, one case of the slot after the other; the gate of R168 does not stand in the pseudocode of a tick. -/
theorem tickWaitsWhileInFlight : Obligations.TickWaitsWhileInFlight := by
  intro s hidle hflight
  have hexec : exec .ppeTick s = ((waitConsumed (accept 0x15 s)).andThen tickAfterWait).outcome complete := by
    rw [← bodyPpeTick_inflight (s := accept 0x15 s) hflight]
    exact command_idle 0x15 bodyPpeTick hidle
  rw [hexec]
  refine ⟨fun hnone => ?empty, fun htoken hword => ?consumed, fun htoken hword => ?other⟩
  case empty =>
    rw [waitConsumed_empty (s := accept 0x15 s) hflight hnone]
    rfl
  case consumed =>
    have hdata : (accept 0x15 s).c.c2pData = tokConsumedWord := hword
    rw [waitConsumed_visible (s := accept 0x15 s) hflight htoken, hdata, takeConsumed_tokConsumedWord]
    rfl
  case other =>
    have hbad : (accept 0x15 s).c.c2pData ≠ tokConsumedWord := hword
    rw [waitConsumed_visible (s := accept 0x15 s) hflight htoken, takeConsumed_bad hbad]
    rfl

/-! ## The snapshot (41_ppe.md R139) -/

/-- The entry of the staging table that a particle gives. -/
def stagedOf (q : Particle) : Staged := ⟨q.x, q.y, q.color⟩

/-- The state the snapshot comes to. -/
def snapped (s : State) : State :=
  { (List.range s.p.count.toNat).foldl (fun t k => snapEntry k t) s with p.stgCount := s.p.count }

section Snapshot

variable {s : State}

/-- The entries of a list are staged, the particle table is only read. -/
theorem foldl_snapEntry_spec : ∀ (l : List Nat) (s : State),
    (∃ stg, l.foldl (fun t k => snapEntry k t) s = { s with p.stg := stg }) ∧
      ∀ j, stgRead (l.foldl (fun t k => snapEntry k t) s) j =
        if j ∈ l then stagedOf (readPart s j) else stgRead s j
  | [], s => ⟨⟨s.p.stg, rfl⟩, fun j => by simp⟩
  | k :: l, s => by
    obtain ⟨⟨stg, hframe⟩, hread⟩ := foldl_snapEntry_spec l (snapEntry k s)
    refine ⟨⟨stg, hframe⟩, fun j => ?_⟩
    have hpart : readPart (snapEntry k s) j = readPart s j := rfl
    rw [List.foldl_cons, hread j, hpart]
    by_cases hjl : j ∈ l
    · simp [hjl]
    · by_cases hjk : j = k
      · subst hjk
        simp [hjl, snapEntry, stgRead_stgWrite, stagedOf]
      · simp [hjl, hjk, snapEntry, stgRead_stgWrite]

theorem snapped_frame (s : State) : ∃ stg, snapped s = { s with p.stg := stg, p.stgCount := s.p.count } := by
  obtain ⟨⟨stg, hframe⟩, -⟩ := foldl_snapEntry_spec (List.range s.p.count.toNat) s
  exact ⟨stg, by rw [snapped, hframe]⟩

theorem stgRead_snapped (s : State) (j : Nat) :
    stgRead (snapped s) j = if j < s.p.count.toNat then stagedOf (readPart s j) else stgRead s j := by
  have hread : stgRead (snapped s) j = _ := (foldl_snapEntry_spec (List.range s.p.count.toNat) s).2 j
  simpa only [List.mem_range] using hread

theorem p2cFullSeen_snapped (s : State) : p2cFullSeen (snapped s) = p2cFullSeen s := by
  obtain ⟨stg, hframe⟩ := snapped_frame s
  rw [hframe]
  rfl

theorem snapshot_eq (hcap : s.p.count.toNat ≤ capacity) : snapshot s = .ok (snapped s) := by
  obtain ⟨⟨stg, hframe⟩, -⟩ := foldl_snapEntry_spec (List.range s.p.count.toNat) s
  rw [snapshot, withParticles_of_le hcap, snapped, hframe]

theorem bodyPpeSnap_eq (hflight : s.p.inflight = false) (hcap : s.p.count.toNat ≤ capacity) :
    bodyPpeSnap s = .ok (snapped s) := by
  rw [bodyPpeSnap, gated_open 0x14 snapshot hflight, snapshot_eq hcap]

theorem exec_ppeSnap (hidle : Idle s) (hflight : s.p.inflight = false) (hcap : s.p.count.toNat ≤ capacity) :
    exec .ppeSnap s = .next (complete (snapped (accept 0x14 s))) :=
  command_of_ok 0x14 (body := bodyPpeSnap) hidle (bodyPpeSnap_eq (s := accept 0x14 s) hflight hcap)

/-- The end of a tick with nothing in flight: the snapshot, then the send (R140). -/
theorem snapAndSend_eq (hflight : s.p.inflight = false) (hcap : s.p.count.toNat ≤ capacity) :
    snapAndSend s = sendOrWait (snapped s) := by
  obtain ⟨stg, hframe⟩ := snapped_frame s
  have hopen : (snapped s).p.inflight = false := by rw [hframe, hflight]
  rw [snapAndSend, bodyPpeSnap_eq hflight hcap, Result.andThen_ok, bodyFshSendrdy, gated_open 0x20 sendOrWait hopen]

theorem sendOrWait_empty (h : p2cFullSeen s = false) : sendOrWait s = .ok (sendReady s) := by
  simp [sendOrWait, h]

theorem sendOrWait_full (h : p2cFullSeen s = true) : sendOrWait s = .pending (waiting s) := by
  simp [sendOrWait, h]

theorem exec_pExec (h : s.p.halt = false) : exec .pExec s = (inProgress s).outcome complete := by
  change execPExec s = _
  rw [execPExec, producerStep_running h]

/-- What is left of a tick under `P.EXEC` (41_ppe.md R120). -/
theorem inProgress_tick (h : s.p.opc = 0x15) : inProgress s = snapAndSend s := by
  have hdecode : decodeCommand (s.p.opc.zeroExtend 32) = .ok .ppeTick := by
    rw [h]
    decide
  simp only [inProgress, hdecode]

end Snapshot

/-- Settles O18: `PPE.SNAP` is `snapped`. -/
theorem snapshotCopiesActiveEntries : Obligations.SnapshotCopiesActiveEntries := by
  intro s hidle hflight hcap
  obtain ⟨stg, hframe⟩ := snapped_frame (accept 0x14 s)
  refine ⟨_, exec_ppeSnap hidle hflight hcap, ?_, stgRead_snapped (accept 0x14 s)⟩
  rw [hframe]
  rfl

/-- Settles O31: the snapshot, then the send by the case of the slot. -/
theorem execPhaseFinishesATick : Obligations.ExecPhaseFinishesATick := by
  intro s hrun hopc hflight hcap
  have hexec : exec .pExec s = (sendOrWait (snapped s)).outcome complete := by
    rw [exec_pExec hrun, inProgress_tick hopc, snapAndSend_eq hflight hcap]
  have hread := stgRead_snapped s
  have hslot := p2cFullSeen_snapped s
  obtain ⟨stg, hframe⟩ := snapped_frame s
  cases hfull : p2cFullSeen s with
  | false =>
    rw [hexec, sendOrWait_empty (hslot.trans hfull)]
    refine ⟨_, rfl, hread, fun _ => ?_, nofun⟩
    rw [hframe]
    rfl
  | true =>
    rw [hexec, sendOrWait_full (hslot.trans hfull)]
    refine ⟨_, rfl, hread, nofun, fun _ => ?_⟩
    rw [hframe]
    rfl

/-! ## Reads of host memory (20_memory.md R63, R67) -/

/-- Nothing but free answers has been consumed. -/
def Drew (s t : State) : Prop := ∃ oracle fresh, t = { s with env.oracle := oracle, env.fresh := fresh }

theorem Drew.trans {s t u : State} (h : Drew s t) (h' : Drew t u) : Drew s u := by
  obtain ⟨_, _, rfl⟩ := h
  obtain ⟨oracle, fresh, rfl⟩ := h'
  exact ⟨oracle, fresh, rfl⟩

theorem drew_popNat (s : State) : Drew s (popNat s).2 := ⟨_, _, popNat_state s⟩

theorem drew_hostByte (addr : Word) (s : State) : Drew s (hostByte addr s).2 := by
  unfold hostByte
  split
  · exact ⟨s.env.oracle, s.env.fresh, rfl⟩
  · exact drew_popNat s

theorem drew_memRead (addr : Word) (s : State) : Drew s (memRead addr s).2 :=
  (drew_hostByte _ s).trans ((drew_hostByte _ _).trans ((drew_hostByte _ _).trans (drew_hostByte _ _)))

theorem hostByte_known {addr : Word} {s : State} {b : Byte} (h : Store.find addr.toNat s.env.hostMem = some b) :
    hostByte addr s = (b, s) := by
  simp [hostByte, h]

/-- A known word is what the read answers, and no free answer is consumed. -/
theorem memRead_known {addr w : Word} {s : State} (h : knownWord s addr = some w) : memRead addr s = (w, s) := by
  unfold knownWord at h
  split at h
  next b0 b1 b2 b3 h0 h1 h2 h3 =>
    cases h
    simp only [memRead, hostByte_known h0, hostByte_known h1, hostByte_known h2, hostByte_known h3]
  next => cases h

theorem aligned_of_extract {base : Word} (h : base.extractLsb' 0 2 = 0) : aligned base = true := by
  simp [aligned, h]

/-! ## The background (41_ppe.md R123) -/

/-- The cells of the field in the order of their pixels. -/
theorem pixel_cell_iff {w : Nat} (hw : 0 < w) (x y k : Nat) : (x = k % w ∧ y = k / w) ↔ x < w ∧ y * w + x = k := by
  have hcell := Nat.div_mod_unique (a := k) (c := x) (d := y) hw
  rw [mul_comm w y, add_comm x] at hcell
  tauto

theorem pixel_lt_iff {w : Nat} {x : Nat} (hx : x < w) (y h : Nat) : y * w + x < h * w ↔ y < h := by
  constructor
  · intro hlt
    by_contra hge
    have := Nat.mul_le_mul_right w (not_lt.mp hge)
    omega
  · intro hy
    have hrow : (y + 1) * w ≤ h * w := Nat.mul_le_mul_right w hy
    rw [Nat.add_mul, Nat.one_mul] at hrow
    omega

/-- The state after the first `n` pixels. -/
def pixelsLoaded (base : Word) (n : Nat) (s : State) : State :=
  (List.range n).foldl (fun t k => loadPixel base k t) s

theorem exec_ppeLdbg {s : State} (hidle : Idle s) (halign : s.p.arg0.extractLsb' 0 2 = 0) :
    exec .ppeLdbg s =
      .next (complete (pixelsLoaded s.p.arg0 (s.geom.h * s.geom.w) (accept 0x10 s))) :=
  command_of_ok 0x10 (body := bodyPpeLdbg) hidle (if_pos (aligned_of_extract halign))

/-- What a load of the background keeps whatever memory answers: it writes the bitmap only, and in it sets bits of the
field only. -/
structure Marked (b t : State) : Prop where
  frame : ∃ obm oracle fresh, t = { b with p.obm := obm, env.oracle := oracle, env.fresh := fresh }
  kept : ∀ x y, obmBit b x y = true → obmBit t x y = true
  outside : ∀ x y, b.geom.w ≤ x ∨ b.geom.h ≤ y → obmBit t x y = obmBit b x y

section Background

variable {b s : State} (base : Word)

theorem Marked.refl (s : State) : Marked s s := ⟨⟨_, _, _, rfl⟩, fun _ _ => id, fun _ _ _ => rfl⟩

theorem Marked.drew (h : Marked b s) {t : State} (ht : Drew s t) : Marked b t := by
  obtain ⟨oracle, fresh, rfl⟩ := ht
  obtain ⟨⟨obm, _, _, rfl⟩, hkept, houtside⟩ := h
  exact ⟨⟨obm, oracle, fresh, rfl⟩, hkept, houtside⟩

theorem Marked.setBit (h : Marked b s) (hwf : b.geom.wf = true) {cx cy : Nat} (hx : cx < b.geom.w)
    (hy : cy < b.geom.h) : Marked b (setObmRow cy (withBit (obmRow s cy) cx true) s) := by
  have hcolumn : cx < 32 := hx.trans_le (geom_w_le hwf)
  obtain ⟨obm, oracle, fresh, hframe⟩ := h.frame
  refine ⟨⟨_, oracle, fresh, congrArg (setObmRow cy _) hframe⟩, fun x y hset => ?_, fun x y hout => ?_⟩
  · rw [obmBit_setBit s cx cy true hcolumn, h.kept x y hset, ite_self]
  · rw [obmBit_setBit s cx cy true hcolumn, if_neg (by omega), h.outside x y hout]

theorem geom_w_pos (h : s.geom.wf = true) : 0 < s.geom.w := by
  simp only [Geometry.wf, decide_eq_true_eq] at h
  exact h.1

theorem Marked.loadPixel (h : Marked b s) (hwf : b.geom.wf = true) {k : Nat} (hk : k < b.geom.h * b.geom.w) :
    Marked b (loadPixel base k s) := by
  have hread := h.drew (drew_memRead (base + BitVec.ofNat 32 (4 * k)) s)
  have hgeom : s.geom = b.geom := by
    obtain ⟨_, _, _, hframe⟩ := h.frame
    rw [hframe]
  unfold Machine.loadPixel
  dsimp only
  rw [hgeom]
  split
  · exact hread.setBit hwf (Nat.mod_lt _ (geom_w_pos hwf)) (Nat.div_lt_of_lt_mul (by rwa [mul_comm]))
  · exact hread

theorem marked_pixelsLoaded (hwf : s.geom.wf = true) : Marked s (pixelsLoaded base (s.geom.h * s.geom.w) s) :=
  List.foldlRecOn _ _ (Marked.refl s) fun _ ht _ hk => ht.loadPixel base hwf (List.mem_range.mp hk)

/-- A known pixel: its cell is marked unless the word is 0. -/
theorem loadPixel_known (hwf : s.geom.wf = true) {k : Nat} {w : Word}
    (hword : knownWord s (base + BitVec.ofNat 32 (4 * k)) = some w) :
    (∃ obm, loadPixel base k s = { s with p.obm := obm }) ∧
      ∀ x y, obmBit (loadPixel base k s) x y =
        (obmBit s x y || decide ((x < s.geom.w ∧ y * s.geom.w + x = k) ∧ w ≠ 0)) := by
  have hcell := fun x y => pixel_cell_iff (geom_w_pos hwf) x y k
  have hcolumn : k % s.geom.w < 32 := (Nat.mod_lt _ (geom_w_pos hwf)).trans_le (geom_w_le hwf)
  simp only [loadPixel, memRead_known hword]
  split
  next hw =>
    refine ⟨⟨_, rfl⟩, fun x y => ?_⟩
    rw [obmBit_setBit s _ _ true hcolumn]
    split
    next hmarked => rw [decide_eq_true ⟨(hcell x y).mp hmarked, hw⟩, Bool.or_true]
    next hother =>
      have hnot : ¬((x < s.geom.w ∧ y * s.geom.w + x = k) ∧ w ≠ 0) := fun h => hother ((hcell x y).mpr h.1)
      rw [decide_eq_false hnot, Bool.or_false]
  next hw => exact ⟨⟨s.p.obm, rfl⟩, fun x y => by simp [not_not.mp hw]⟩

/-- The first `n` pixels, all known, mark exactly the cells whose word is not 0. -/
theorem pixelsLoaded_known (hwf : s.geom.wf = true) : ∀ n : Nat,
    (∀ k, k < n → (knownWord s (base + BitVec.ofNat 32 (4 * k))).isSome = true) →
    (∃ obm, pixelsLoaded base n s = { s with p.obm := obm }) ∧
      ∀ x y, obmBit (pixelsLoaded base n s) x y =
        (obmBit s x y || decide (x < s.geom.w ∧ y * s.geom.w + x < n ∧
          knownWord s (base + BitVec.ofNat 32 (4 * (y * s.geom.w + x))) ≠ some 0))
  | 0, _ => ⟨⟨s.p.obm, rfl⟩, fun x y => by simp [pixelsLoaded]⟩
  | n + 1, hknown => by
    obtain ⟨⟨obm, hframe⟩, hbits⟩ := pixelsLoaded_known hwf n fun k hk => hknown k (by omega)
    obtain ⟨w, hword⟩ := Option.isSome_iff_exists.mp (hknown n (by omega))
    have hlast : pixelsLoaded base (n + 1) s = loadPixel base n (pixelsLoaded base n s) := by
      simp [pixelsLoaded, List.range_succ]
    have hgeom : (pixelsLoaded base n s).geom = s.geom := by rw [hframe]
    have hword' : knownWord (pixelsLoaded base n s) (base + BitVec.ofNat 32 (4 * n)) = some w := by
      rw [hframe]
      exact hword
    obtain ⟨⟨obm', hframe'⟩, hbits'⟩ := loadPixel_known base (by rw [hgeom]; exact hwf) hword'
    refine ⟨⟨obm', ?_⟩, fun x y => ?_⟩
    · rw [hlast, hframe', hframe]
    · rw [hlast, hbits', hbits, hgeom, Bool.or_assoc, ← Bool.decide_or]
      congr 1
      apply decide_eq_decide.mpr
      by_cases hn : y * s.geom.w + x = n
      · rw [hn, hword]
        simp
      · have hlt : y * s.geom.w + x < n + 1 ↔ y * s.geom.w + x < n := by omega
        simp [hn, hlt]

end Background

/-- Settles O10: whatever memory answers by `Marked`, a known image by `pixelsLoaded_known`. -/
theorem loadBackgroundMarksObstacles : Obligations.LoadBackgroundMarksObstacles := by
  intro s hidle hwf halign
  rw [exec_ppeLdbg hidle halign]
  refine ⟨?anyImage, fun hknown => ?knownImage⟩
  case anyImage =>
    have hmarked : Marked (accept 0x10 s) (pixelsLoaded s.p.arg0 (s.geom.h * s.geom.w) (accept 0x10 s)) :=
      marked_pixelsLoaded s.p.arg0 hwf
    obtain ⟨⟨obm, oracle, fresh, hframe⟩, hkept, houtside⟩ := hmarked
    refine ⟨_, rfl, ?_, fun x y => ⟨hkept x y, houtside x y⟩⟩
    rw [hframe]
    rfl
  case knownImage =>
    obtain ⟨⟨obm, hframe⟩, hbits⟩ := pixelsLoaded_known (s := accept 0x10 s) s.p.arg0 hwf _ hknown
    refine ⟨_, rfl, ?_, fun x y => (hbits x y).trans ?_⟩
    · rw [hframe]
      rfl
    · refine congrArg (obmBit s x y || ·) (decide_eq_decide.mpr ?_)
      exact and_congr_right fun hx => and_congr_left fun _ => pixel_lt_iff hx y s.geom.h

/-! ## The particle table (41_ppe.md R124) -/

/-- The entry that a triple gives: the centre of its cell, at rest. -/
def tripleEntry (cx cy col : Word) : Particle :=
  ⟨BitVec.ofNat 16 (cx.toNat * 256 + 128), BitVec.ofNat 16 (cy.toNat * 256 + 128), 0, 0, col⟩

/-- Host memory is known to hold triple `k` of the table at `base`. -/
structure KnownTriple (s : State) (base : Word) (k : Nat) (cx cy col : Word) : Prop where
  x : knownWord s (base + BitVec.ofNat 32 (12 * k)) = some cx
  y : knownWord s (base + BitVec.ofNat 32 (12 * k + 4)) = some cy
  color : knownWord s (base + BitVec.ofNat 32 (12 * k + 8)) = some col

/-- The first `m` triples are in the table and marked in the bitmap. -/
structure TriplesLoaded (cx cy col : Nat → Word) (m : Nat) (s t : State) : Prop where
  frame : ∃ part obm, t = { s with p.part := part, p.obm := obm }
  below : ∀ k, k < m → readPart t k = tripleEntry (cx k) (cy k) (col k)
  above : ∀ k, m ≤ k → readPart t k = readPart s k
  bits : ∀ x y, obmBit t x y = true ↔
    obmBit s x y = true ∨ ∃ k, k < m ∧ (cx k).toNat = x ∧ (cy k).toNat = y

section Table

variable {s : State} {base : Word} {k : Nat}

theorem loadTriple_inside {cx cy col : Word} (h : KnownTriple s base k cx cy col) (hx : cx.toNat < s.geom.w)
    (hy : cy.toNat < s.geom.h) :
    loadTriple base k s = .ok (setObmRow cy.toNat (withBit (obmRow s cy.toNat) cx.toNat true)
      (writePart k (tripleEntry cx cy col) s)) := by
  have hin : inField s cx.toNat cy.toNat = true := (inField_iff s _ _).mpr ⟨hx, hy⟩
  simp only [loadTriple, memRead_known h.x, memRead_known h.y, memRead_known h.color, if_pos hin]
  exact obmPut_inside (s := writePart k (tripleEntry cx cy col) s) true hx hy

theorem loadTriple_outside {cx cy col : Word} (h : KnownTriple s base k cx cy col)
    (hout : s.geom.w ≤ cx.toNat ∨ s.geom.h ≤ cy.toNat) :
    loadTriple base k s = .raised (raiseP fRange (rangeInfo cx.toNat cy.toNat) s) := by
  have hin : ¬inField s cx.toNat cy.toNat = true := by
    rw [inField_iff]
    omega
  simp only [loadTriple, memRead_known h.x, memRead_known h.y, memRead_known h.color, if_neg hin]

variable {cx cy col : Nat → Word}

/-- A load of the table writes no host memory. -/
theorem TriplesLoaded.known {m : Nat} {t : State} (h : TriplesLoaded cx cy col m s t)
    (hk : KnownTriple s base k (cx k) (cy k) (col k)) : KnownTriple t base k (cx k) (cy k) (col k) := by
  obtain ⟨_, _, rfl⟩ := h.frame
  exact ⟨hk.x, hk.y, hk.color⟩

theorem TriplesLoaded.geom {m : Nat} {t : State} (h : TriplesLoaded cx cy col m s t) : t.geom = s.geom := by
  obtain ⟨_, _, rfl⟩ := h.frame
  rfl

/-- One more triple. -/
theorem TriplesLoaded.succ {m : Nat} {t : State} (h : TriplesLoaded cx cy col m s t) (hcolumn : (cx m).toNat < 32) :
    TriplesLoaded cx cy col (m + 1) s (setObmRow (cy m).toNat (withBit (obmRow t (cy m).toNat) (cx m).toNat true)
      (writePart m (tripleEntry (cx m) (cy m) (col m)) t)) where
  frame := by
    obtain ⟨_, _, rfl⟩ := h.frame
    exact ⟨_, _, rfl⟩
  below k hk := by
    rw [readPart_setObmRow, readPart_writePart]
    split
    next hkm => rw [hkm]
    next hkm => exact h.below k (by omega)
  above k hk := by
    rw [readPart_setObmRow, readPart_writePart, if_neg (by omega), h.above k (by omega)]
  bits x y := by
    have hwritten := obmBit_setBit (writePart m (tripleEntry (cx m) (cy m) (col m)) t) _ (cy m).toNat true hcolumn x y
    rw [obmRow_writePart, obmBit_writePart] at hwritten
    rw [hwritten]
    have hmore : (∃ k, k < m + 1 ∧ (cx k).toNat = x ∧ (cy k).toNat = y) ↔
        ((cx m).toNat = x ∧ (cy m).toNat = y) ∨ ∃ k, k < m ∧ (cx k).toNat = x ∧ (cy k).toNat = y := by
      simp only [Nat.lt_succ_iff_lt_or_eq, or_and_right, exists_or, exists_eq_left]
      exact or_comm
    rw [hmore]
    split
    next hcell => simp [hcell]
    next hcell =>
      have hother : ¬((cx m).toNat = x ∧ (cy m).toNat = y) := fun ⟨hx, hy⟩ => hcell ⟨hx.symm, hy.symm⟩
      rw [h.bits]
      simp only [hother, false_or]

/-- The first `m` triples, all known and in the field. -/
theorem runEach_loadTriple (hwf : s.geom.wf = true) : ∀ m : Nat,
    (∀ k, k < m → KnownTriple s base k (cx k) (cy k) (col k)) →
    (∀ k, k < m → (cx k).toNat < s.geom.w ∧ (cy k).toNat < s.geom.h) →
    ∃ t, runEach (loadTriple base) (List.range m) s = .ok t ∧ TriplesLoaded cx cy col m s t
  | 0, _, _ => ⟨s, rfl, ⟨s.p.part, s.p.obm, rfl⟩, by simp, by simp, by simp⟩
  | m + 1, hknown, hin => by
    obtain ⟨t, hrun, ht⟩ := runEach_loadTriple hwf m (fun k hk => hknown k (by omega)) fun k hk => hin k (by omega)
    obtain ⟨hx, hy⟩ := hin m (by omega)
    have hstep := loadTriple_inside (ht.known (hknown m (by omega))) (ht.geom.symm ▸ hx) (ht.geom.symm ▸ hy)
    refine ⟨_, ?_, ht.succ (hx.trans_le (geom_w_le hwf))⟩
    rw [List.range_succ, runEach_append, hrun, Result.andThen_ok, runEach_cons, hstep, Result.andThen_ok, runEach_nil]

theorem exec_ppeLdpart (hidle : Idle s) (hcap : s.p.arg1.toNat ≤ 512) (halign : s.p.arg0.extractLsb' 0 2 = 0) :
    exec .ppeLdpart s =
      ((runEach (loadTriple s.p.arg0) (List.range s.p.arg1.toNat) (accept 0x11 s)).andThen fun t =>
        .ok { t with p.count := BitVec.ofNat 10 s.p.arg1.toNat }).outcome complete := by
  have hfits : ¬capacity < opCount (accept 0x11 s) := not_lt.mpr hcap
  refine (command_idle 0x11 bodyPpeLdpart hidle).trans ?_
  rw [bodyPpeLdpart, if_neg hfits, if_pos (aligned_of_extract (base := opBase (accept 0x11 s)) halign)]
  rfl

end Table

/-- Settles O12: all `n` triples by `runEach_loadTriple`, then the count. -/
theorem loadParticlesFillsTheTable : Obligations.LoadParticlesFillsTheTable := by
  intro s cx cy col hidle hwf hcap halign htriples
  have hknown : ∀ k, k < s.p.arg1.toNat → KnownTriple (accept 0x11 s) s.p.arg0 k (cx k) (cy k) (col k) := by
    intro k hk
    obtain ⟨hx, hy, hcol, -⟩ := htriples k hk
    exact ⟨hx, hy, hcol⟩
  have hin : ∀ k, k < s.p.arg1.toNat → (cx k).toNat < s.geom.w ∧ (cy k).toNat < s.geom.h := by
    intro k hk
    obtain ⟨-, -, -, hcell⟩ := htriples k hk
    exact hcell
  obtain ⟨t, hrun, ⟨part, obm, hframe⟩, hbelow, habove, hbits⟩ :=
    runEach_loadTriple (s := accept 0x11 s) hwf _ hknown hin
  rw [exec_ppeLdpart hidle hcap halign, hrun]
  refine ⟨_, rfl, ?_, hbelow, habove, hbits⟩
  rw [hframe]
  rfl

theorem range_eq_append_cons {m n : Nat} (h : m < n) : ∃ later, List.range n = List.range m ++ m :: later := by
  obtain ⟨r, rfl⟩ := Nat.exists_eq_add_of_lt h
  refine ⟨List.range' (m + 1) r, ?_⟩
  rw [← List.range'_succ, List.range_eq_range', List.range_eq_range', Nat.add_assoc, ← List.range'_append_1,
    Nat.zero_add]

/-- Settles O13: the triples below `m` by `runEach_loadTriple`; triple `m` raises, and none after it is read. -/
theorem loadParticlesStopsAtBadTriple : Obligations.LoadParticlesStopsAtBadTriple := by
  intro s cx cy col m hidle hwf hcap halign hm htriples hin hout
  have hknown : ∀ k, k ≤ m → KnownTriple (accept 0x11 s) s.p.arg0 k (cx k) (cy k) (col k) := by
    intro k hk
    obtain ⟨hx, hy, hcol⟩ := htriples k hk
    exact ⟨hx, hy, hcol⟩
  obtain ⟨t, hrun, ht⟩ := runEach_loadTriple (s := accept 0x11 s) hwf m (fun k hk => hknown k hk.le) hin
  have hbad := loadTriple_outside (ht.known (hknown m le_rfl)) (ht.geom.symm ▸ hout)
  obtain ⟨later, hsplit⟩ := range_eq_append_cons hm
  obtain ⟨⟨part, obm, hframe⟩, hbelow, habove, hbits⟩ := ht
  rw [exec_ppeLdpart hidle hcap halign, hsplit, runEach_append, hrun, Result.andThen_ok, runEach_cons, hbad,
    rangeInfo_toNat]
  refine ⟨_, rfl, ?_, hbelow, habove, hbits⟩
  rw [hframe]
  rfl

end Sys2Proof.Machine

/-! Proofs of the family `41_ppe.md`, the engine: the sort (O26), the velocity pass (O28), the motion pass (O29, O30), and
`PPE.ITER` and `PPE.TICK` as a whole (O14, O15, O17, O19). Under containment no operation of the motion pass raises, so
the pass is a function of the state (`moved`, `iterated`); what each of its parts keeps is one relation (`Passed`). -/

namespace Sys2Proof.Machine

open Sys2Proof.Config

/-! ## What a part of `iterate` writes -/

/-- Only the table, the bitmap, the working registers, the cursor and the free answers consumed have changed. -/
def EngineFrame (s t : State) : Prop :=
  ∃ part obm work i oracle fresh, t = { s with
    p.part := part, p.obm := obm, p.work := work, p.i := i, env.oracle := oracle, env.fresh := fresh }

/-- Only the sequencer has moved on. -/
def Repositioned (s t : State) : Prop :=
  ∃ busy pphase i, t = { s with p.busy := busy, p.pphase := pphase, p.i := i }

section Frames

variable {s t u : State}

theorem EngineFrame.refl (s : State) : EngineFrame s s := ⟨_, _, _, _, _, _, rfl⟩

theorem EngineFrame.trans (h : EngineFrame s t) (h' : EngineFrame t u) : EngineFrame s u := by
  obtain ⟨_, _, _, _, _, _, rfl⟩ := h
  obtain ⟨part, obm, work, i, oracle, fresh, rfl⟩ := h'
  exact ⟨part, obm, work, i, oracle, fresh, rfl⟩

theorem EngineFrame.count (h : EngineFrame s t) : t.p.count = s.p.count := by
  obtain ⟨_, _, _, _, _, _, rfl⟩ := h
  rfl

theorem EngineFrame.geom (h : EngineFrame s t) : t.geom = s.geom := by
  obtain ⟨_, _, _, _, _, _, rfl⟩ := h
  rfl

theorem EngineFrame.epoch (h : EngineFrame s t) : t.env.epoch = s.env.epoch := by
  obtain ⟨_, _, _, _, _, _, rfl⟩ := h
  rfl

theorem repositioned_endOfMotion (s : State) : Repositioned s (endOfMotion s) := by
  unfold endOfMotion
  split
  · exact ⟨_, _, _, rfl⟩
  · exact ⟨_, _, _, rfl⟩

theorem repositioned_toVelocity (s : State) : Repositioned s (toVelocity s) := by
  unfold toVelocity
  split
  · exact repositioned_endOfMotion s
  · exact ⟨_, _, _, rfl⟩

theorem repositioned_afterAccel (s : State) : Repositioned s (afterAccel s) := by
  unfold afterAccel
  split
  · exact ⟨_, _, _, rfl⟩
  · unfold toMotion
    split
    · exact repositioned_endOfMotion s
    · exact ⟨_, _, _, rfl⟩

theorem repositioned_afterMove (s : State) : Repositioned s (afterMove s) := by
  unfold afterMove
  split
  · exact ⟨_, _, _, rfl⟩
  · exact repositioned_endOfMotion s

theorem Repositioned.readPart (h : Repositioned s t) (k : Nat) : readPart t k = readPart s k := by
  obtain ⟨_, _, _, rfl⟩ := h
  rfl

theorem Repositioned.activeParts (h : Repositioned s t) : activeParts t = activeParts s := by
  obtain ⟨_, _, _, rfl⟩ := h
  rfl

theorem Repositioned.obmBit (h : Repositioned s t) (x y : Nat) : obmBit t x y = obmBit s x y := by
  obtain ⟨_, _, _, rfl⟩ := h
  rfl

theorem Repositioned.part (h : Repositioned s t) : t.p.part = s.p.part := by
  obtain ⟨_, _, _, rfl⟩ := h
  rfl

theorem Repositioned.obm (h : Repositioned s t) : t.p.obm = s.p.obm := by
  obtain ⟨_, _, _, rfl⟩ := h
  rfl

theorem Repositioned.work (h : Repositioned s t) : t.p.work = s.p.work := by
  obtain ⟨_, _, _, rfl⟩ := h
  rfl

theorem Repositioned.env (h : Repositioned s t) : t.env = s.env := by
  obtain ⟨_, _, _, rfl⟩ := h
  rfl

end Frames

/-! ## The sort (41_ppe.md R130) -/

section SortByKey

variable (dx dy : Int)

theorem insertByKey_perm (q : Particle) : ∀ l, (insertByKey dx dy q l).Perm (q :: l)
  | [] => .refl _
  | r :: rs => by
    unfold insertByKey
    split
    · exact .refl _
    · exact ((insertByKey_perm q rs).cons r).trans (.swap q r rs)

theorem sortByKey_perm : ∀ l, (sortByKey dx dy l).Perm l
  | [] => .refl _
  | q :: qs => (insertByKey_perm dx dy q _).trans ((sortByKey_perm qs).cons q)

/-- The key does not increase along the list. -/
def KeyFalls (l : List Particle) : Prop := l.Pairwise fun q r => sortKey dx dy r ≤ sortKey dx dy q

theorem insertByKey_keyFalls (q : Particle) : ∀ l, KeyFalls dx dy l → KeyFalls dx dy (insertByKey dx dy q l)
  | [], _ => List.pairwise_singleton _ q
  | r :: rs, h => by
    obtain ⟨hr, hrs⟩ := List.pairwise_cons.mp h
    unfold insertByKey
    split
    next hle =>
      refine List.pairwise_cons.mpr ⟨fun x hx => ?_, h⟩
      rcases List.mem_cons.mp hx with rfl | hx
      · exact hle
      · exact (hr x hx).trans hle
    next hgt =>
      refine List.pairwise_cons.mpr ⟨fun x hx => ?_, insertByKey_keyFalls q rs hrs⟩
      rcases List.mem_cons.mp ((insertByKey_perm dx dy q rs).mem_iff.mp hx) with rfl | hx
      · omega
      · exact hr x hx

theorem sortByKey_keyFalls : ∀ l, KeyFalls dx dy (sortByKey dx dy l)
  | [] => List.Pairwise.nil
  | q :: qs => insertByKey_keyFalls dx dy q _ (sortByKey_keyFalls qs)

/-- The entry inserted goes before those of its own key and passes only those of a larger one. -/
theorem filter_insertByKey (key : Int) (q : Particle) : ∀ l,
    (insertByKey dx dy q l).filter (fun r => sortKey dx dy r = key) =
      (q :: l).filter fun r => sortKey dx dy r = key
  | [] => rfl
  | r :: rs => by
    unfold insertByKey
    split
    · rfl
    next hgt =>
      have hdiffer : ¬(sortKey dx dy q = key ∧ sortKey dx dy r = key) := by omega
      rw [List.filter_cons, filter_insertByKey key q rs]
      simp only [List.filter_cons, decide_eq_true_eq]
      by_cases hq : sortKey dx dy q = key
      · have hr : ¬sortKey dx dy r = key := fun hr => hdiffer ⟨hq, hr⟩
        simp [hq, hr]
      · simp [hq]

theorem filter_sortByKey (key : Int) : ∀ l,
    (sortByKey dx dy l).filter (fun r => sortKey dx dy r = key) = l.filter fun r => sortKey dx dy r = key
  | [] => rfl
  | q :: qs => by rw [sortByKey, filter_insertByKey, List.filter_cons, filter_sortByKey key qs, List.filter_cons]

end SortByKey

section WriteParts

theorem writeParts_frame (k : Nat) (l : List Particle) (s : State) :
    ∃ part, writeParts k l s = { s with p.part := part } := by
  induction l generalizing k s with
  | nil => exact ⟨s.p.part, rfl⟩
  | cons q qs ih =>
    obtain ⟨part, hpart⟩ := ih (k + 1) (writePart k q s)
    exact ⟨part, hpart⟩

theorem readPart_writeParts_outside {j k : Nat} (l : List Particle) (s : State) (h : j < k ∨ k + l.length ≤ j) :
    readPart (writeParts k l s) j = readPart s j := by
  induction l generalizing k s with
  | nil => rfl
  | cons q qs ih =>
    rw [List.length_cons] at h
    rw [writeParts, ih _ (by omega), readPart_writePart, if_neg (by omega)]

theorem map_readPart_writeParts (k : Nat) (l : List Particle) (s : State) :
    (List.range' k l.length).map (readPart (writeParts k l s)) = l := by
  induction l generalizing k s with
  | nil => rfl
  | cons q qs ih =>
    have hfirst : readPart (writeParts (k + 1) qs (writePart k q s)) k = q := by
      rw [readPart_writeParts_outside qs _ (by omega), readPart_writePart, if_pos rfl]
    rw [List.length_cons, List.range'_succ, List.map_cons, writeParts, hfirst, ih]

theorem length_activeParts (s : State) : (activeParts s).length = s.p.count.toNat := by simp [activeParts]

/-- The active entries after they are all written. -/
theorem activeParts_writeParts {l : List Particle} {s : State} (h : l.length = s.p.count.toNat) :
    activeParts (writeParts 0 l s) = l := by
  obtain ⟨part, hframe⟩ := writeParts_frame 0 l s
  have hcount : (writeParts 0 l s).p.count = s.p.count := by rw [hframe]
  rw [activeParts, hcount, ← h, List.range_eq_range', map_readPart_writeParts]

/-- What the sort does: the direction is in `dx`, `dy`, the active entries are sorted along it, and nothing else has
changed. -/
theorem sortOp_spec (s : State) :
    let d := sortDirection s.p.work.ax2 s.p.work.ay2
    (∃ part, sortOp s = { s with p.part := part, p.work := { s.p.work with dx := d.1, dy := d.2 } }) ∧
      activeParts (sortOp s) = sortByKey d.1 d.2 (activeParts s) ∧
      ∀ k, s.p.count.toNat ≤ k → readPart (sortOp s) k = readPart s k := by
  intro d
  have hlength : (sortByKey d.1 d.2 (activeParts s)).length = s.p.count.toNat := by
    rw [(sortByKey_perm d.1 d.2 _).length_eq, length_activeParts]
  refine ⟨?_, activeParts_writeParts hlength, fun k hk => ?_⟩
  · obtain ⟨part, hframe⟩ := writeParts_frame 0 (sortByKey d.1 d.2 (activeParts s))
      { s with p.work := { s.p.work with dx := d.1, dy := d.2 } }
    exact ⟨part, hframe⟩
  · exact readPart_writeParts_outside _ _ (.inr (by rwa [Nat.zero_add, hlength]))

theorem sortIfEnabled_off {s : State} (h : cfgSortEn s = false) : sortIfEnabled s = s := by simp [sortIfEnabled, h]

theorem sortIfEnabled_on {s : State} (h : cfgSortEn s = true) : sortIfEnabled s = sortOp s := by
  simp [sortIfEnabled, h]

end WriteParts

/-- Settles O26: `sortOp_spec`, and what `sortByKey` makes of a list. -/
theorem sortIsAStablePermutation : Obligations.SortIsAStablePermutation := by
  intro s hrun hcap
  rw [exec_pSort hrun hcap]
  refine ⟨fun hoff => by rw [sortIfEnabled_off hoff], fun hon => ?_⟩
  intro d
  rw [sortIfEnabled_on hon]
  obtain ⟨⟨part, hframe⟩, hactive, hrest⟩ := sortOp_spec s
  have hpos := repositioned_toVelocity (sortOp s)
  refine ⟨_, rfl, ?_, ?_, ?_, fun key => ?_, fun k hk => ?_⟩
  · rw [hpos.part, hframe]
  · rw [hpos.activeParts, hactive]
    exact sortByKey_perm _ _ _
  · rw [hpos.activeParts, hactive]
    exact sortByKey_keyFalls _ _ _
  · rw [hpos.activeParts, hactive]
    exact filter_sortByKey _ _ key _
  · rw [hpos.readPart, hrest k hk]

/-! ## The velocity pass (41_ppe.md R131) -/

/-- The entry with another velocity. -/
def withVelocity (q : Particle) (v : Int × Int) : Particle :=
  { q with vx := BitVec.ofInt 16 v.1, vy := BitVec.ofInt 16 v.2 }

/-- A component within a cell fits its field (41_ppe.md R145). -/
theorem toInt_ofInt_of_abs_le {v : Int} (h : |v| ≤ 256) : (BitVec.ofInt 16 v).toInt = v := by
  obtain ⟨hlow, hhigh⟩ := abs_le.mp h
  exact BitVec.toInt_ofInt_eq_self (by norm_num) (by norm_num; omega) (by norm_num; omega)

/-- What the velocity pass does to one particle: two draws in their range, listed ones x first, and the clamped sum. -/
theorem accelOp_spec (k : Nat) (s : State) : ∃ (jx jy : Nat) (oracle : List Nat) (fresh : Nat),
    jx ≤ s.p.work.jmax ∧ jy ≤ s.p.work.jmax ∧
    (∀ n m rest, s.env.oracle = n :: m :: rest → n ≤ s.p.work.jmax → m ≤ s.p.work.jmax →
      jx = n ∧ jy = m ∧ oracle = rest) ∧
    accelOp k s = writePart k (withVelocity (readPart s k) (accelerated s.p.work (readPart s k) jx jy))
      { s with
        p.i := BitVec.ofNat 10 k
        p.work := { s.p.work with
          vx := (accelerated s.p.work (readPart s k) jx jy).1, vy := (accelerated s.p.work (readPart s k) jx jy).2 }
        env.oracle := oracle, env.fresh := fresh } := by
  have hdrew := (drew_popNat s).trans (drew_popNat (draw s.p.work.jmax s).2)
  obtain ⟨oracle, fresh, hstate⟩ := hdrew
  change (draw s.p.work.jmax (draw s.p.work.jmax s).2).2 = _ at hstate
  refine ⟨(draw s.p.work.jmax s).1, (draw s.p.work.jmax (draw s.p.work.jmax s).2).1, oracle, fresh,
    draw_le _ _, draw_le _ _, fun n m rest horacle hn hm => ?_, ?_⟩
  · have hfirst := draw_listed horacle hn
    have hsecond := draw_listed (s := { s with env.oracle := m :: rest }) rfl hm
    rw [hfirst, hsecond] at hstate ⊢
    exact ⟨rfl, rfl, (congrArg (fun t => t.env.oracle) hstate).symm⟩
  · unfold accelOp
    dsimp only
    rw [hstate]
    rfl

/-- Settles O28: the turn of `P.ACCEL` is `accelOp_spec`, and the clamped sum fits its fields. -/
theorem accelerateAddsTiltAndJitter : Obligations.AccelerateAddsTiltAndJitter := by
  intro s hrun hcap hi
  obtain ⟨jx, jy, oracle, fresh, hjx, hjy, hlisted, haccel⟩ := accelOp_spec s.p.i.toNat s
  have hcursor : BitVec.ofNat 10 s.p.i.toNat = s.p.i := by simp
  have hpos := repositioned_afterAccel (accelOp s.p.i.toNat s)
  have hentry : readPart (afterAccel (accelOp s.p.i.toNat s)) s.p.i.toNat =
      withVelocity (readPart s s.p.i.toNat) (accelerated s.p.work (readPart s s.p.i.toNat) jx jy) := by
    rw [hpos.readPart, haccel, readPart_writePart, if_pos rfl]
  have hbound := clampSpeed_abs_le ((readPart s s.p.i.toNat).vx.toInt + s.p.work.ax2 + (jx : Int))
    ((readPart s s.p.i.toNat).vy.toInt + s.p.work.ay2 + (jy : Int))
  refine ⟨jx, jy, _, hjx, hjy, exec_pAccel hrun hcap hi, ?_⟩
  intro q v
  refine ⟨hentry, ?_, ?_, fun k hk => ?_, ?_, fun n m rest horacle hn hm => ?_⟩
  · rw [hentry]
    exact toInt_ofInt_of_abs_le hbound.1
  · rw [hentry]
    exact toInt_ofInt_of_abs_le hbound.2
  · rw [hpos.readPart, haccel, readPart_writePart, if_neg hk]
    rfl
  · rw [hpos.part, hpos.env, haccel, hcursor]
    rfl
  · obtain ⟨hx, hy, hrest⟩ := hlisted n m rest horacle hn hm
    refine ⟨hx, hy, ?_⟩
    rw [hpos.env, haccel]
    exact hrest

/-! ## Cells and coordinates (00_scope.md R12, 41_ppe.md R134) -/

section Cells

/-- A coordinate inside a field of `w` cells is in one of its cells. -/
theorem cellOf_lt {w : Nat} {v : Int} (h0 : 0 ≤ v) (h : v ≤ (w : Int) * 256 - 1) : cellOf v < w := by
  unfold cellOf
  omega

/-- A step of at most one cell's length ends in the same cell or beside it. -/
theorem cellOf_near {v v' : Int} (h0 : 0 ≤ v) (h0' : 0 ≤ v') (h : |v' - v| ≤ 256) :
    cellOf v' ≤ cellOf v + 1 ∧ cellOf v ≤ cellOf v' + 1 := by
  obtain ⟨hlow, hhigh⟩ := abs_le.mp h
  unfold cellOf
  omega

/-- The linear cell index is one to one on the field. -/
theorem cell_eq_of_index_eq {w x y x' y' : Nat} (hx : x < w) (hx' : x' < w) (h : y * w + x = y' * w + x') :
    x = x' ∧ y = y' := by
  have hw : 0 < w := by omega
  have hcell := (pixel_cell_iff hw x y _).mpr ⟨hx, rfl⟩
  have hcell' := (pixel_cell_iff hw x' y' _).mpr ⟨hx', h.symm⟩
  exact ⟨hcell.1.trans hcell'.1.symm, hcell.2.trans hcell'.2.symm⟩

variable {w x y x' y' : Nat}

/-- On a field at least 3 wide an index difference of 1 between cells beside each other is a step along x. -/
theorem row_eq_of_index_diff_one (hw : 3 ≤ w) (hx : x' ≤ x + 1 ∧ x ≤ x' + 1) (hy : y' ≤ y + 1 ∧ y ≤ y' + 1)
    (h : (((y' * w + x' : Nat) : Int) - (y * w + x : Nat)).natAbs = 1) : y' = y := by
  obtain rfl | rfl | rfl : y' = y ∨ y' = y + 1 ∨ y = y' + 1 := by omega
  · rfl
  · rw [Nat.add_mul] at h
    omega
  · rw [Nat.add_mul] at h
    omega

/-- On a field at least 3 wide an index difference of `W` between cells beside each other is a step along y. -/
theorem column_eq_of_index_diff_width (hw : 3 ≤ w) (hx : x' ≤ x + 1 ∧ x ≤ x' + 1) (hy : y' ≤ y + 1 ∧ y ≤ y' + 1)
    (h : (((y' * w + x' : Nat) : Int) - (y * w + x : Nat)).natAbs = w) : x' = x := by
  obtain rfl | rfl | rfl : y' = y ∨ y' = y + 1 ∨ y = y' + 1 := by omega
  · omega
  · rw [Nat.add_mul] at h
    omega
  · rw [Nat.add_mul] at h
    omega

end Cells

/-! ## The motion that `P.MOVE` decides on (41_ppe.md R133 to R136) -/

/-- The motion that the collision of candidate `m` is resolved to, by the index difference `delta`. -/
def collided (s : State) (q : Particle) (delta : Nat) (m : Motion) : Motion :=
  if delta = 1 then cancelX (cfgElasticity s) q.x.toNat m
  else if delta = s.geom.w then cancelY (cfgElasticity s) q.y.toNat m
  else skid (cfgElasticity s) q.x.toNat q.y.toNat (!obmBit s (cellOf m.nx) (cellOf q.y.toNat))
    (!obmBit s (cellOf q.x.toNat) (cellOf m.ny)) m

/-- The motion that particle `q` is given: the candidate in its own cell or a free one, else what the collision comes
to. -/
def resolved (s : State) (q : Particle) : Motion :=
  let m := candidate s q
  if cellIndex s q.x.toNat q.y.toNat = cellIndex s m.nx m.ny then m
  else if obmBit s (cellOf m.nx) (cellOf m.ny) then
    collided s q (cellIndex s m.nx m.ny - cellIndex s q.x.toNat q.y.toNat).natAbs m
  else m

/-- Position inside the field, and each component of the velocity no faster than the particle's. -/
structure Within (s : State) (q : Particle) (m : Motion) : Prop where
  x0 : 0 ≤ m.nx
  x1 : m.nx ≤ xmax s
  y0 : 0 ≤ m.ny
  y1 : m.ny ≤ ymax s
  vx : m.vx.natAbs ≤ q.vx.toInt.natAbs
  vy : m.vy.natAbs ≤ q.vy.toInt.natAbs

section Motion

variable {s : State} {q : Particle} {m : Motion}

theorem cfgElasticity_le (s : State) : cfgElasticity s ≤ 255 :=
  Nat.le_of_lt_succ (s.p.cfg.extractLsb' 8 8).isLt

/-- Everything the wall clamp of one axis can do. -/
theorem wallClamp_cases (e : Nat) (max o v : Int) :
    (o + v < 0 ∧ wallClamp e max o v = (0, bounce e v)) ∨
    (0 ≤ o + v ∧ max < o + v ∧ wallClamp e max o v = (max, bounce e v)) ∨
    (0 ≤ o + v ∧ o + v ≤ max ∧ wallClamp e max o v = (o + v, v)) := by
  unfold wallClamp
  split
  next hlow => exact .inl ⟨hlow, rfl⟩
  next hlow =>
    split
    next hhigh => exact .inr (.inl ⟨by omega, by omega, rfl⟩)
    next hhigh => exact .inr (.inr ⟨by omega, by omega, rfl⟩)

/-- One axis of the candidate: inside the field, no faster, and no further off than the velocity. -/
theorem wallClamp_spec {e : Nat} (he : e ≤ 255) {max o : Int} (v : Int) (h0 : 0 ≤ o) (h1 : o ≤ max) :
    0 ≤ (wallClamp e max o v).1 ∧ (wallClamp e max o v).1 ≤ max ∧
      (wallClamp e max o v).2.natAbs ≤ v.natAbs ∧ |(wallClamp e max o v).1 - o| ≤ |v| := by
  have hbounce := natAbs_bounce_le v he
  rw [← Int.natCast_natAbs, ← Int.natCast_natAbs]
  obtain ⟨hlow, e⟩ | ⟨hlow, hhigh, e⟩ | ⟨hlow, hhigh, e⟩ := wallClamp_cases e max o v <;> rw [e] <;> dsimp only
  · exact ⟨le_rfl, by omega, hbounce, by omega⟩
  · exact ⟨by omega, le_rfl, hbounce, by omega⟩
  · exact ⟨hlow, hhigh, le_rfl, by omega⟩

theorem candidate_within (hx : (q.x.toNat : Int) ≤ xmax s) (hy : (q.y.toNat : Int) ≤ ymax s) :
    Within s q (candidate s q) := by
  obtain ⟨hx0, hx1, hvx, -⟩ := wallClamp_spec (cfgElasticity_le s) q.vx.toInt (Int.natCast_nonneg q.x.toNat) hx
  obtain ⟨hy0, hy1, hvy, -⟩ := wallClamp_spec (cfgElasticity_le s) q.vy.toInt (Int.natCast_nonneg q.y.toNat) hy
  exact ⟨hx0, hx1, hy0, hy1, hvx, hvy⟩

theorem Within.cancelX (h : Within s q m) (hx : (q.x.toNat : Int) ≤ xmax s) :
    Within s q (cancelX (cfgElasticity s) q.x.toNat m) :=
  { h with
    x0 := Int.natCast_nonneg _
    x1 := hx
    vx := (natAbs_bounce_le m.vx (cfgElasticity_le s)).trans h.vx }

theorem Within.cancelY (h : Within s q m) (hy : (q.y.toNat : Int) ≤ ymax s) :
    Within s q (cancelY (cfgElasticity s) q.y.toNat m) :=
  { h with
    y0 := Int.natCast_nonneg _
    y1 := hy
    vy := (natAbs_bounce_le m.vy (cfgElasticity_le s)).trans h.vy }

/-- Everything the skid can come to: one axis is given up and the cell along the other is free, or both are. -/
theorem skid_cases (e : Nat) (ox oy : Int) (freeX freeY : Bool) (m : Motion) :
    (freeX = true ∧ skid e ox oy freeX freeY m = cancelY e oy m) ∨
    (freeY = true ∧ skid e ox oy freeX freeY m = cancelX e ox m) ∨
    skid e ox oy freeX freeY m = cancelX e ox (cancelY e oy m) := by
  unfold skid
  cases freeX <;> cases freeY <;> by_cases hfaster : |m.vx| ≥ |m.vy| <;> simp [hfaster]

/-- Everything a collision can come to. -/
theorem collided_cases (s : State) (q : Particle) (delta : Nat) (m : Motion) :
    (delta = 1 ∧ collided s q delta m = cancelX (cfgElasticity s) q.x.toNat m) ∨
    (delta = s.geom.w ∧ collided s q delta m = cancelY (cfgElasticity s) q.y.toNat m) ∨
    (obmBit s (cellOf m.nx) (cellOf q.y.toNat) = false ∧
      collided s q delta m = cancelY (cfgElasticity s) q.y.toNat m) ∨
    (obmBit s (cellOf q.x.toNat) (cellOf m.ny) = false ∧
      collided s q delta m = cancelX (cfgElasticity s) q.x.toNat m) ∨
    collided s q delta m = cancelX (cfgElasticity s) q.x.toNat (cancelY (cfgElasticity s) q.y.toNat m) := by
  unfold collided
  split
  next hone => exact .inl ⟨hone, rfl⟩
  next =>
    split
    next hwidth => exact .inr (.inl ⟨hwidth, rfl⟩)
    next =>
      obtain ⟨hfree, e⟩ | ⟨hfree, e⟩ | e := skid_cases (cfgElasticity s) q.x.toNat q.y.toNat
        (!obmBit s (cellOf m.nx) (cellOf q.y.toNat)) (!obmBit s (cellOf q.x.toNat) (cellOf m.ny)) m <;> rw [e]
      · exact .inr (.inr (.inl ⟨by simpa using hfree, rfl⟩))
      · exact .inr (.inr (.inr (.inl ⟨by simpa using hfree, rfl⟩)))
      · exact .inr (.inr (.inr (.inr rfl)))

theorem Within.collided (h : Within s q m) (hx : (q.x.toNat : Int) ≤ xmax s) (hy : (q.y.toNat : Int) ≤ ymax s)
    (delta : Nat) : Within s q (collided s q delta m) := by
  obtain ⟨-, e⟩ | ⟨-, e⟩ | ⟨-, e⟩ | ⟨-, e⟩ | e := collided_cases s q delta m <;> rw [e]
  · exact h.cancelX hx
  · exact h.cancelY hy
  · exact h.cancelY hy
  · exact h.cancelX hx
  · exact (h.cancelY hy).cancelX hx

theorem resolved_within (hx : (q.x.toNat : Int) ≤ xmax s) (hy : (q.y.toNat : Int) ≤ ymax s) :
    Within s q (resolved s q) := by
  have hcandidate := candidate_within hx hy
  unfold resolved
  dsimp only
  split
  · exact hcandidate
  · split
    · exact hcandidate.collided hx hy _
    · exact hcandidate

/-- The motion ends in the particle's own cell or in a free one. -/
def Lands (s : State) (q : Particle) (m : Motion) : Prop :=
  (cellOf m.nx = cellOf q.x.toNat ∧ cellOf m.ny = cellOf q.y.toNat) ∨ obmBit s (cellOf m.nx) (cellOf m.ny) = false

/-- The key fact of R141 (3): on a field at least 3 wide and within the speed bound the index difference tells a step
along x from one along y, so whatever a collision comes to ends in the particle's own cell or in a free one. -/
theorem resolved_lands (hw : 3 ≤ s.geom.w) (hx : (q.x.toNat : Int) ≤ xmax s) (hy : (q.y.toNat : Int) ≤ ymax s)
    (hvx : |q.vx.toInt| ≤ 256) (hvy : |q.vy.toInt| ≤ 256) : Lands s q (resolved s q) := by
  obtain ⟨hx0, hx1, hy0, hy1, -, -⟩ := candidate_within hx hy
  have hnearx : cellOf (candidate s q).nx ≤ _ ∧ _ := cellOf_near (Int.natCast_nonneg q.x.toNat) hx0
    ((wallClamp_spec (cfgElasticity_le s) q.vx.toInt (Int.natCast_nonneg q.x.toNat) hx).2.2.2.trans hvx)
  have hneary : cellOf (candidate s q).ny ≤ _ ∧ _ := cellOf_near (Int.natCast_nonneg q.y.toNat) hy0
    ((wallClamp_spec (cfgElasticity_le s) q.vy.toInt (Int.natCast_nonneg q.y.toNat) hy).2.2.2.trans hvy)
  have holdx : cellOf q.x.toNat < s.geom.w := cellOf_lt (Int.natCast_nonneg _) hx
  have hnewx : cellOf (candidate s q).nx < s.geom.w := cellOf_lt hx0 hx1
  unfold resolved
  dsimp only
  generalize candidate s q = m at *
  split
  next hsame =>
    obtain ⟨hcx, hcy⟩ := cell_eq_of_index_eq holdx hnewx (Int.ofNat_inj.mp hsame)
    exact .inl ⟨hcx.symm, hcy.symm⟩
  next =>
    split
    next =>
      obtain ⟨hone, e⟩ | ⟨hwidth, e⟩ | ⟨hfree, e⟩ | ⟨hfree, e⟩ | e := collided_cases s q _ m <;> rw [e]
      · exact .inl ⟨rfl, row_eq_of_index_diff_one hw hnearx hneary hone⟩
      · exact .inl ⟨column_eq_of_index_diff_width hw hnearx hneary hwidth, rfl⟩
      · exact .inr hfree
      · exact .inr hfree
      · exact .inl ⟨rfl, rfl⟩
    next hfree => exact .inr (Bool.not_eq_true _ ▸ hfree)

end Motion

/-! ## The commit (41_ppe.md R137) -/

/-- The entry with the position and velocity of a motion. -/
def movedEntry (q : Particle) (m : Motion) : Particle :=
  { q with
    x := BitVec.ofInt 16 m.nx, y := BitVec.ofInt 16 m.ny, vx := BitVec.ofInt 16 m.vx, vy := BitVec.ofInt 16 m.vy }

/-- The bitmap after the old cell's bit is cleared. -/
def vacated (q : Particle) (s : State) : State :=
  setObmRow (cellOf q.y.toNat) (withBit (obmRow s (cellOf q.y.toNat)) (cellOf q.x.toNat) false) s

/-- The bitmap after the new cell's bit is set. -/
def settled (m : Motion) (s : State) : State :=
  setObmRow (cellOf m.ny) (withBit (obmRow s (cellOf m.ny)) (cellOf m.nx) true) s

/-- The state that the commit comes to, both cells in the field. -/
def committed (k : Nat) (q : Particle) (m : Motion) (s : State) : State :=
  writePart k (movedEntry q m)
    { settled m (vacated q s) with p.work := { s.p.work with nx := m.nx, ny := m.ny, vx := m.vx, vy := m.vy } }

/-- The state in which the bitmap is looked at: the cursor and the working registers of particle `k`. -/
def prepared (k : Nat) (s : State) : State :=
  let q := readPart s k
  let m := candidate s q
  let oldidx := cellIndex s q.x.toNat q.y.toNat
  let newidx := cellIndex s m.nx m.ny
  { s with
    p.i := BitVec.ofNat 10 k
    p.work := { s.p.work with
      ox := q.x.toNat, oy := q.y.toNat, oldidx := oldidx, newidx := newidx, delta := (newidx - oldidx).natAbs } }

/-- The state that `P.MOVE(k)` comes to, the particle being inside the field. -/
def moved (k : Nat) (s : State) : State :=
  committed k (readPart s k) (resolved s (readPart s k)) (prepared k s)

section Commit

variable {s : State} {k : Nat}

theorem commitMove_inside {q : Particle} {m : Motion} (hx : (q.x.toNat : Int) ≤ xmax s)
    (hy : (q.y.toNat : Int) ≤ ymax s) (hm : Within s q m) : commitMove k q m s = .ok (committed k q m s) := by
  have hold := obmPut_inside (s := s) false (cellOf_lt (Int.natCast_nonneg q.x.toNat) hx)
    (cellOf_lt (Int.natCast_nonneg q.y.toNat) hy)
  have hnew := obmPut_inside (s := vacated q s) true (cellOf_lt hm.x0 hm.x1) (cellOf_lt hm.y0 hm.y1)
  unfold vacated at hnew
  rw [commitMove, hold, Result.andThen_ok, hnew]
  rfl

/-- A collision is committed as what it comes to: the two single-axis cells that are read are in the field. -/
theorem resolveHit_inside {q : Particle} {m : Motion} (delta : Nat) (hx : (q.x.toNat : Int) ≤ xmax s)
    (hy : (q.y.toNat : Int) ≤ ymax s) (hm : Within s q m) :
    resolveHit k q delta m s = .ok (committed k q (collided s q delta m) s) := by
  rw [← commitMove_inside hx hy (hm.collided hx hy delta)]
  unfold resolveHit collided
  dsimp only
  split
  · rfl
  · split
    · rfl
    · rw [obmGet_inside _ (cellOf_lt hm.x0 hm.x1) (cellOf_lt (Int.natCast_nonneg q.y.toNat) hy),
        obmGet_inside _ (cellOf_lt (Int.natCast_nonneg q.x.toNat) hx) (cellOf_lt hm.y0 hm.y1)]

/-- Inside the field `P.MOVE` goes to its end, and this is the state it comes to. -/
theorem moveOp_inside (hin : InField s k) : moveOp k s = .ok (moved k s) := by
  obtain ⟨hx, hy⟩ := hin
  have hm := candidate_within hx hy
  have hcommit := commitMove_inside (s := prepared k s) (k := k) hx hy (m := candidate s (readPart s k))
    ⟨hm.x0, hm.x1, hm.y0, hm.y1, hm.vx, hm.vy⟩
  have hhit := fun delta => resolveHit_inside (s := prepared k s) (k := k) (m := candidate s (readPart s k)) delta hx hy
    ⟨hm.x0, hm.x1, hm.y0, hm.y1, hm.vx, hm.vy⟩
  have hget := fun rest => obmGet_inside (s := prepared k s) rest (cellOf_lt hm.x0 hm.x1) (cellOf_lt hm.y0 hm.y1)
  unfold moved resolved
  change (if _ then commitMove k (readPart s k) (candidate s (readPart s k)) (prepared k s)
    else obmGet _ _ (fun hit => if hit then resolveHit k (readPart s k) _ (candidate s (readPart s k)) (prepared k s)
      else commitMove k (readPart s k) (candidate s (readPart s k)) (prepared k s)) (prepared k s)) = _
  rw [hget, hcommit, hhit]
  dsimp only
  split
  · rfl
  · change (if obmBit s _ _ = true then _ else _) = _
    split
    · rfl
    · rfl

/-- The bit cleared, then the bit set. -/
theorem obmBit_committed {q : Particle} {m : Motion} (hold : cellOf q.x.toNat < 32) (hnew : cellOf m.nx < 32)
    (x y : Nat) : obmBit (committed k q m s) x y =
      if x = cellOf m.nx ∧ y = cellOf m.ny then true
      else if x = cellOf q.x.toNat ∧ y = cellOf q.y.toNat then false else obmBit s x y := by
  rw [← obmBit_setBit s _ _ false hold]
  exact obmBit_setBit (vacated q s) _ _ true hnew x y

/-- What `P.MOVE` does to the table and the bitmap (R137). -/
theorem movedTo_moved (hw : s.geom.w ≤ 32) (hin : InField s k) :
    MovedTo k (resolved s (readPart s k)) s (moved k s) := by
  obtain ⟨hx, hy⟩ := hin
  have hr := resolved_within hx hy
  have hold := cellOf_lt (Int.natCast_nonneg (readPart s k).x.toNat) hx
  have hnew := cellOf_lt hr.x0 hr.x1
  refine ⟨?_, fun j hj => ?_, obmBit_committed (hold.trans_le hw) (hnew.trans_le hw)⟩
  · exact (readPart_writePart k k _ _).trans (if_pos rfl)
  · exact (readPart_writePart j k _ _).trans (if_neg hj)

/-- Nothing but the table, the bitmap, the working registers and the cursor is written. -/
theorem moved_frame (k : Nat) (s : State) : ∃ part obm work,
    moved k s = { s with p.part := part, p.obm := obm, p.work := work, p.i := BitVec.ofNat 10 k } :=
  ⟨_, _, _, rfl⟩

/-- The candidate, axis by axis as R133 states it. -/
theorem candidate_eq (s : State) (q : Particle) : candidate s q = {
    nx := if (q.x.toNat : Int) + q.vx.toInt < 0 then 0
      else if xmax s < (q.x.toNat : Int) + q.vx.toInt then xmax s else (q.x.toNat : Int) + q.vx.toInt
    ny := if (q.y.toNat : Int) + q.vy.toInt < 0 then 0
      else if ymax s < (q.y.toNat : Int) + q.vy.toInt then ymax s else (q.y.toNat : Int) + q.vy.toInt
    vx := if (q.x.toNat : Int) + q.vx.toInt < 0 ∨ xmax s < (q.x.toNat : Int) + q.vx.toInt
      then bounce (cfgElasticity s) q.vx.toInt else q.vx.toInt
    vy := if (q.y.toNat : Int) + q.vy.toInt < 0 ∨ ymax s < (q.y.toNat : Int) + q.vy.toInt
      then bounce (cfgElasticity s) q.vy.toInt else q.vy.toInt } := by
  have haxis : ∀ (e : Nat) (max o v : Int), wallClamp e max o v =
      (if o + v < 0 then 0 else if max < o + v then max else o + v,
        if o + v < 0 ∨ max < o + v then bounce e v else v) := by
    intro e max o v
    obtain ⟨hlow, h⟩ | ⟨hlow, hhigh, h⟩ | ⟨hlow, hhigh, h⟩ := wallClamp_cases e max o v <;> rw [h]
    · simp [hlow]
    · simp [not_lt.mpr hlow, hhigh]
    · simp [not_lt.mpr hlow, not_lt.mpr hhigh]
  simp only [candidate, haxis]

/-- The turn of agent `P` at `P.MOVE(i)`, the particle being inside the field. -/
theorem exec_pMove_inside (hrun : s.p.halt = false) (hcap : s.p.count.toNat ≤ capacity)
    (hi : s.p.i.toNat < s.p.count.toNat) (hin : InField s s.p.i.toNat) :
    exec .pMove s = .next (afterMove (moved s.p.i.toNat s)) := by
  rw [exec_pMove hrun hcap hi, moveOp_inside hin, Result.outcome_ok]

theorem MovedTo.repositioned {m : Motion} {t u : State} (h : MovedTo k m s t) (hpos : Repositioned t u) :
    MovedTo k m s u := by
  refine ⟨?_, fun j hj => ?_, fun x y => ?_⟩
  · rw [hpos.readPart, h.entry]
  · rw [hpos.readPart, h.others j hj]
  · rw [hpos.obmBit, h.bits]

/-- What a turn at `P.MOVE(i)` leaves, whatever it decided on. -/
theorem afterMove_moved_frame (s : State) : afterMove (moved s.p.i.toNat s) = afterMove { s with
    p.part := (afterMove (moved s.p.i.toNat s)).p.part, p.obm := (afterMove (moved s.p.i.toNat s)).p.obm
    p.work := (afterMove (moved s.p.i.toNat s)).p.work } := by
  have hcursor : BitVec.ofNat 10 s.p.i.toNat = s.p.i := by simp
  have hpos := repositioned_afterMove (moved s.p.i.toNat s)
  obtain ⟨part, obm, work, hframe⟩ := moved_frame s.p.i.toNat s
  rw [hpos.part, hpos.obm, hpos.work, hframe, hcursor]

end Commit

/-- Settles O29: `moved`, when the motion decided on is the candidate. -/
theorem moveIntoFreeCell : Obligations.MoveIntoFreeCell := by
  intro s hrun hwf hcap hi hin q e ox oy vx vy xMax yMax m hfree
  have hm : candidate s q = m := candidate_eq s q
  have hresolved : resolved s q = m := by
    simp only [resolved, hm]
    split
    · rfl
    next hother =>
      rw [if_neg]
      rw [hfree.resolve_left hother]
      decide
  have hmoved := movedTo_moved (geom_w_le hwf) hin
  rw [hresolved] at hmoved
  exact ⟨_, exec_pMove_inside hrun hcap hi hin, hmoved.repositioned (repositioned_afterMove _), afterMove_moved_frame s⟩

/-- The branches of the skid when x is at least as fast (R136). -/
theorem skid_fastX {e : Nat} {ox oy : Int} {m : Motion} (h : |m.vx| ≥ |m.vy|) (bx bY : Bool) :
    (bx = false → skid e ox oy (!bx) (!bY) m = cancelY e oy m) ∧
      (bx ≠ false → bY = false → skid e ox oy (!bx) (!bY) m = cancelX e ox m) ∧
      (bx ≠ false → bY ≠ false → skid e ox oy (!bx) (!bY) m = cancelX e ox (cancelY e oy m)) := by
  simp only [skid, if_pos h]
  cases bx <;> cases bY <;> simp

/-- The branches of the skid when y is faster (R136). -/
theorem skid_fastY {e : Nat} {ox oy : Int} {m : Motion} (h : |m.vx| < |m.vy|) (bx bY : Bool) :
    (bY = false → skid e ox oy (!bx) (!bY) m = cancelX e ox m) ∧
      (bY ≠ false → bx = false → skid e ox oy (!bx) (!bY) m = cancelY e oy m) ∧
      (bY ≠ false → bx ≠ false → skid e ox oy (!bx) (!bY) m = cancelX e ox (cancelY e oy m)) := by
  simp only [skid, if_neg (not_le.mpr h)]
  cases bx <;> cases bY <;> simp

/-- Settles O30: `moved`, when the motion decided on is what the collision comes to; the branches of `collided` and of
the skid are the cases of R135 and R136. -/
theorem moveResolvesCollision : Obligations.MoveResolvesCollision := by
  intro s hrun hwf hcap hi hin q e ox oy vx vy xMax yMax m delta freeX freeY giveX giveY giveBoth hdelta hhit
  have hm : candidate s q = m := candidate_eq s q
  have hother : cellIndex s q.x.toNat q.y.toNat ≠ cellIndex s m.nx m.ny := fun hsame =>
    hdelta (by simp only [delta]; rw [← hsame]; simp [ox, oy])
  have hresolved : resolved s q = collided s q delta m := by
    simp only [resolved, hm, if_neg hother, hhit, if_true]
    rfl
  have hskid : delta ≠ 1 → delta ≠ s.geom.w → collided s q delta m =
      skid e ox oy (!obmBit s (cellOf m.nx) (cellOf oy)) (!obmBit s (cellOf ox) (cellOf m.ny)) m :=
    fun h1 hw => (if_neg h1).trans (if_neg hw)
  have hmoved := movedTo_moved (geom_w_le hwf) hin
  rw [hresolved] at hmoved
  refine ⟨_, _, exec_pMove_inside hrun hcap hi hin, hmoved.repositioned (repositioned_afterMove _),
    afterMove_moved_frame s, fun h1 => if_pos h1, fun h1 hw => (if_neg h1).trans (if_pos hw),
    fun h1 hw hfast => ?_, fun h1 hw hslow => ?_⟩
  · rw [hskid h1 hw]
    exact skid_fastX hfast _ _
  · rw [hskid h1 hw]
    exact skid_fastY hslow _ _

/-! ## Consistency and containment, from the active entries as a list -/

/-- Position and colour of the active entries. -/
def placed (s : State) : List Staged := (activeParts s).map stagedOf

/-- The cell of a position. -/
def stagedCell (e : Staged) : Nat × Nat := (e.x.toNat / 256, e.y.toNat / 256)

/-- The cells of the active entries, in their order. -/
def cells (s : State) : List (Nat × Nat) := (placed s).map stagedCell

section Lists

variable {s t : State}

theorem cells_eq (s : State) : cells s = (List.range s.p.count.toNat).map fun k => (cellX s k, cellY s k) := by
  simp only [cells, placed, activeParts, List.map_map]
  rfl

theorem mem_cells (s : State) (x y : Nat) :
    (x, y) ∈ cells s ↔ ∃ k, k < s.p.count.toNat ∧ cellX s k = x ∧ cellY s k = y := by
  simp [cells_eq]

theorem forall_cells (s : State) (P : Nat → Nat → Prop) :
    (∀ c ∈ cells s, P c.1 c.2) ↔ ∀ k, k < s.p.count.toNat → P (cellX s k) (cellY s k) := by
  simp [cells_eq]

theorem nodup_cells (s : State) : (cells s).Nodup ↔ ∀ j k, j < s.p.count.toNat → k < s.p.count.toNat →
    cellX s j = cellX s k → cellY s j = cellY s k → j = k := by
  rw [cells_eq, List.nodup_map_iff_inj_on List.nodup_range]
  simp only [List.mem_range, Prod.mk.injEq, and_imp]
  exact ⟨fun h j k hj hk => h j hj k hk, fun h j hj k hk => h j k hj hk⟩

/-- Consistency speaks of the cells as a set, and of no cell standing twice in the list. -/
theorem consistent_iff (obstacle : Nat → Nat → Bool) (s : State) : Consistent obstacle s ↔
    (∀ x y, x < s.geom.w → y < s.geom.h → (obmBit s x y = true ↔ obstacle x y = true ∨ (x, y) ∈ cells s)) ∧
      (∀ c ∈ cells s, obstacle c.1 c.2 = false) ∧ (cells s).Nodup := by
  simp only [mem_cells, forall_cells s fun x y => obstacle x y = false, nodup_cells]
  exact ⟨fun ⟨hbits, hclear, hapart⟩ => ⟨hbits, hclear, hapart⟩, fun ⟨hbits, hclear, hapart⟩ =>
    ⟨hbits, hclear, hapart⟩⟩

theorem contained_iff (s : State) :
    Contained s ↔ ∀ e ∈ placed s, (e.x.toNat : Int) ≤ xmax s ∧ (e.y.toNat : Int) ≤ ymax s := by
  simp only [placed, activeParts, List.map_map, List.forall_mem_map, List.mem_range]
  rfl

/-- What every part of `iterate` keeps: its frame, the entries that are not active, the colours, containment, and on
fields at least 3 wide the consistency of the bitmap. -/
structure Passed (s t : State) : Prop where
  frame : EngineFrame s t
  rest : ∀ k, s.p.count.toNat ≤ k → readPart t k = readPart s k
  colors : ((placed t).map fun e => e.color).Perm ((placed s).map fun e => e.color)
  contained : Contained s → Contained t
  consistent : 3 ≤ s.geom.w → ∀ obstacle, Consistent obstacle s → Consistent obstacle t

theorem Passed.refl (s : State) : Passed s s := ⟨.refl s, fun _ _ => rfl, .refl _, id, fun _ _ => id⟩

theorem Passed.trans {u : State} (h : Passed s t) (h' : Passed t u) : Passed s u where
  frame := h.frame.trans h'.frame
  rest k hk := (h'.rest k (by rwa [h.frame.count])).trans (h.rest k hk)
  colors := h'.colors.trans h.colors
  contained hs := h'.contained (h.contained hs)
  consistent hw obstacle hs := h'.consistent (by rwa [h.frame.geom]) obstacle (h.consistent hw obstacle hs)

/-- A part that moves no particle and writes no bit, whatever it does to the order and to the velocities. -/
theorem passed_of_placed_perm (hframe : EngineFrame s t) (hobm : t.p.obm = s.p.obm)
    (hrest : ∀ k, s.p.count.toNat ≤ k → readPart t k = readPart s k) (hplaced : (placed t).Perm (placed s)) :
    Passed s t where
  frame := hframe
  rest := hrest
  colors := hplaced.map _
  contained hs := by
    rw [contained_iff, xmax, ymax, hframe.geom]
    exact fun e he => (contained_iff s).mp hs e (hplaced.mem_iff.mp he)
  consistent _ obstacle hs := by
    have hcells : (cells t).Perm (cells s) := hplaced.map _
    have hbit : ∀ x y, obmBit t x y = obmBit s x y := fun x y => by
      rw [obmBit, obmBit, obmRow, obmRow, hobm, hframe.epoch]
    rw [consistent_iff] at hs ⊢
    simp only [hbit, hframe.geom, hcells.mem_iff, hcells.nodup_iff]
    exact hs

end Lists

/-! ## The scaling, the sort and the velocity pass -/

section VelocityPass

variable {s : State}

theorem passed_scaleOp (s : State) : Passed s (scaleOp s) :=
  passed_of_placed_perm ⟨_, _, _, _, _, _, rfl⟩ rfl (fun _ _ => rfl) (.refl _)

/-- The sort, on or off: the table and `dx`, `dy` are written, and the active entries are rearranged. -/
theorem sortIfEnabled_spec (s : State) :
    (∃ part dx dy, sortIfEnabled s = { s with p.part := part, p.work := { s.p.work with dx := dx, dy := dy } }) ∧
      (activeParts (sortIfEnabled s)).Perm (activeParts s) ∧
      ∀ k, s.p.count.toNat ≤ k → readPart (sortIfEnabled s) k = readPart s k := by
  cases hon : cfgSortEn s with
  | false =>
    rw [sortIfEnabled_off hon]
    exact ⟨⟨s.p.part, s.p.work.dx, s.p.work.dy, rfl⟩, .refl _, fun _ _ => rfl⟩
  | true =>
    rw [sortIfEnabled_on hon]
    obtain ⟨⟨part, hframe⟩, hactive, hrest⟩ := sortOp_spec s
    refine ⟨⟨part, _, _, hframe⟩, ?_, hrest⟩
    rw [hactive]
    exact sortByKey_perm _ _ _

theorem passed_sortIfEnabled (s : State) : Passed s (sortIfEnabled s) := by
  obtain ⟨⟨part, dx, dy, hframe⟩, hactive, hrest⟩ := sortIfEnabled_spec s
  have hobm : (sortIfEnabled s).p.obm = s.p.obm := by rw [hframe]
  have hengine : EngineFrame s (sortIfEnabled s) := by
    rw [hframe]
    exact ⟨_, _, _, _, _, _, rfl⟩
  exact passed_of_placed_perm hengine hobm hrest (hactive.map _)

theorem accelOp_frame (k : Nat) (s : State) : EngineFrame s (accelOp k s) ∧ (accelOp k s).p.obm = s.p.obm := by
  obtain ⟨_, _, _, _, -, -, -, haccel⟩ := accelOp_spec k s
  rw [haccel]
  exact ⟨⟨_, _, _, _, _, _, rfl⟩, rfl⟩

theorem readPart_accelOp_other {j k : Nat} (h : j ≠ k) (s : State) : readPart (accelOp k s) j = readPart s j := by
  obtain ⟨_, _, _, _, -, -, -, haccel⟩ := accelOp_spec k s
  rw [haccel, readPart_writePart, if_neg h]
  rfl

/-- Acceleration changes velocities only. -/
theorem stagedOf_accelOp (j k : Nat) (s : State) : stagedOf (readPart (accelOp k s) j) = stagedOf (readPart s j) := by
  by_cases h : j = k
  · obtain ⟨_, _, _, _, -, -, -, haccel⟩ := accelOp_spec k s
    rw [haccel, h, readPart_writePart, if_pos rfl]
    rfl
  · rw [readPart_accelOp_other h]

/-- The clamp leaves the particle within the speed bound (41_ppe.md R132). -/
theorem speedOk_accelOp (k : Nat) (s : State) : SpeedOk (accelOp k s) k := by
  obtain ⟨jx, jy, _, _, -, -, -, haccel⟩ := accelOp_spec k s
  have hsq := clampSpeed_sq_le ((readPart s k).vx.toInt + s.p.work.ax2 + (jx : Int))
    ((readPart s k).vy.toInt + s.p.work.ay2 + (jy : Int))
  obtain ⟨hvx, hvy⟩ := abs_le_of_sq_add_sq_le hsq
  have hentry : readPart (accelOp k s) k = withVelocity (readPart s k)
      (accelerated s.p.work (readPart s k) jx jy) := by
    rw [haccel, readPart_writePart, if_pos rfl]
  have hx : (readPart (accelOp k s) k).vx.toInt = _ := (congrArg (fun q => q.vx.toInt) hentry).trans
    (toInt_ofInt_of_abs_le hvx)
  have hy : (readPart (accelOp k s) k).vy.toInt = _ := (congrArg (fun q => q.vy.toInt) hentry).trans
    (toInt_ofInt_of_abs_le hvy)
  rw [SpeedOk, hx, hy]
  exact hsq

theorem speedOk_congr {s t : State} {k : Nat} (h : readPart t k = readPart s k) : SpeedOk t k ↔ SpeedOk s k := by
  rw [SpeedOk, SpeedOk, h]

/-- A velocity pass over the entries of a list. -/
theorem foldl_accelOp_spec (l : List Nat) (s : State) :
    let t := l.foldl (fun t k => accelOp k t) s
    EngineFrame s t ∧ t.p.obm = s.p.obm ∧ (∀ j, j ∉ l → readPart t j = readPart s j) ∧
      (∀ j, stagedOf (readPart t j) = stagedOf (readPart s j)) ∧ ∀ j ∈ l, SpeedOk t j := by
  induction l generalizing s with
  | nil => exact ⟨.refl s, rfl, fun _ _ => rfl, fun _ => rfl, by simp⟩
  | cons k l ih =>
    obtain ⟨hframe, hobm, hother, hstaged, hspeed⟩ := ih (accelOp k s)
    obtain ⟨hframe1, hobm1⟩ := accelOp_frame k s
    refine ⟨hframe1.trans hframe, hobm.trans hobm1, fun j hj => ?_, fun j => ?_, fun j hj => ?_⟩
    · exact (hother j (List.not_mem_of_not_mem_cons hj)).trans
        (readPart_accelOp_other (List.ne_of_not_mem_cons hj) s)
    · exact (hstaged j).trans (stagedOf_accelOp j k s)
    · by_cases hjl : j ∈ l
      · exact hspeed j hjl
      · obtain rfl : j = k := (List.mem_cons.mp hj).resolve_right hjl
        exact (speedOk_congr (hother j hjl)).mpr (speedOk_accelOp j s)

theorem passed_accelAll (s : State) : Passed s (accelAll s) := by
  obtain ⟨hframe, hobm, hother, hstaged, -⟩ := foldl_accelOp_spec (List.range s.p.count.toNat) s
  refine passed_of_placed_perm hframe hobm (fun k hk => hother k (by simpa using hk)) (.of_eq ?_)
  have hcount : (accelAll s).p.count = s.p.count := hframe.count
  simp only [placed, activeParts, List.map_map, hcount]
  exact List.map_congr_left fun k _ => hstaged k

theorem speedBounded_accelAll (s : State) : SpeedBounded (accelAll s) := by
  obtain ⟨hframe, -, -, -, hspeed⟩ := foldl_accelOp_spec (List.range s.p.count.toNat) s
  intro k hk
  have hcount : (accelAll s).p.count = s.p.count := hframe.count
  rw [hcount] at hk
  exact hspeed k (List.mem_range.mpr hk)

end VelocityPass

/-! ## The motion pass -/

/-- The state that the motion pass comes to under containment. -/
def motionPass (l : List Nat) (s : State) : State := l.foldl (fun t k => moved k t) s

section MotionPass

variable {s : State} {k : Nat}

/-- A coordinate inside a field of at most 32 cells fits its field (41_ppe.md R145). -/
theorem toNat_ofInt_coordinate {n : Nat} {v : Int} (hn : n ≤ 32) (h0 : 0 ≤ v) (h1 : v ≤ (n : Int) * 256 - 1) :
    (BitVec.ofInt 16 v).toNat = v.toNat := by
  rw [BitVec.toNat_ofInt]
  congr 1
  exact Int.emod_eq_of_lt h0 (by norm_num; omega)

theorem readPart_moved (hw : s.geom.w ≤ 32) (hin : InField s k) (j : Nat) :
    readPart (moved k s) j = if j = k then movedEntry (readPart s k) (resolved s (readPart s k)) else readPart s j := by
  have hmoved := movedTo_moved hw hin
  split
  next h => rw [h, hmoved.entry, movedEntry]
  next h => exact hmoved.others j h

theorem engineFrame_moved (k : Nat) (s : State) : EngineFrame s (moved k s) := by
  obtain ⟨part, obm, work, hframe⟩ := moved_frame k s
  rw [hframe]
  exact ⟨_, _, _, _, _, _, rfl⟩

@[simp] theorem moved_p_count (k : Nat) (s : State) : (moved k s).p.count = s.p.count := (engineFrame_moved k s).count

@[simp] theorem moved_geom (k : Nat) (s : State) : (moved k s).geom = s.geom := (engineFrame_moved k s).geom

theorem inField_moved_iff (j k : Nat) (s : State) : InField (moved k s) j ↔
    ((readPart (moved k s) j).x.toNat : Int) ≤ xmax s ∧ ((readPart (moved k s) j).y.toNat : Int) ≤ ymax s := by
  rw [InField, xmax, ymax, moved_geom, ← xmax, ← ymax]

/-- Where the particle is after its move. -/
theorem moved_coordinates (hw : s.geom.w ≤ 32) (hh : s.geom.h ≤ 32) (hin : InField s k) :
    ((readPart (moved k s) k).x.toNat = (resolved s (readPart s k)).nx.toNat) ∧
      (readPart (moved k s) k).y.toNat = (resolved s (readPart s k)).ny.toNat := by
  have hr := resolved_within hin.1 hin.2
  rw [readPart_moved hw hin, if_pos rfl]
  exact ⟨toNat_ofInt_coordinate hw hr.x0 hr.x1, toNat_ofInt_coordinate hh hr.y0 hr.y1⟩

theorem contained_moved (hw : s.geom.w ≤ 32) (hh : s.geom.h ≤ 32) (hin : InField s k) (hs : Contained s) :
    Contained (moved k s) := by
  intro j hj
  rw [moved_p_count] at hj
  rw [inField_moved_iff]
  by_cases h : j = k
  · have hr := resolved_within hin.1 hin.2
    obtain ⟨hx, hy⟩ := moved_coordinates hw hh hin
    rw [h, hx, hy, Int.toNat_of_nonneg hr.x0, Int.toNat_of_nonneg hr.y0]
    exact ⟨hr.x1, hr.y1⟩
  · rw [readPart_moved hw hin, if_neg h]
    exact hs j hj

/-- A motion is no faster than the particle was, so the bound holds on. -/
theorem speedOk_moved (hw : s.geom.w ≤ 32) (hin : InField s k) (hv : SpeedOk s k) : SpeedOk (moved k s) k := by
  have hr := resolved_within hin.1 hin.2
  have hvx := Int.natAbs_le_iff_mul_self_le.mp hr.vx
  have hvy := Int.natAbs_le_iff_mul_self_le.mp hr.vy
  have hsq : (resolved s (readPart s k)).vx * (resolved s (readPart s k)).vx +
      (resolved s (readPart s k)).vy * (resolved s (readPart s k)).vy ≤ 65536 := (Int.add_le_add hvx hvy).trans hv
  obtain ⟨hfitx, hfity⟩ := abs_le_of_sq_add_sq_le hsq
  rw [SpeedOk, readPart_moved hw hin, if_pos rfl, movedEntry, toInt_ofInt_of_abs_le hfitx, toInt_ofInt_of_abs_le hfity]
  exact hsq

theorem speedBounded_moved (hw : s.geom.w ≤ 32) (hin : InField s k) (hv : SpeedBounded s) (hk : k < s.p.count.toNat) :
    SpeedBounded (moved k s) := by
  intro j hj
  rw [moved_p_count] at hj
  by_cases h : j = k
  · rw [h]
    exact speedOk_moved hw hin (hv k hk)
  · exact (speedOk_congr ((readPart_moved hw hin j).trans (if_neg h))).mpr (hv j hj)

/-- No other particle, and no obstacle, is in the cell that a motion lands in. -/
theorem Consistent.landing {obstacle : Nat → Nat → Bool} {m : Motion} (hs : Consistent obstacle s)
    (hk : k < s.p.count.toNat) (hm : Within s (readPart s k) m) (hlands : Lands s (readPart s k) m) :
    obstacle (cellOf m.nx) (cellOf m.ny) = false ∧
      ∀ j, j < s.p.count.toNat → cellX s j = cellOf m.nx → cellY s j = cellOf m.ny → j = k := by
  rcases hlands with ⟨hx, hy⟩ | hfree
  · rw [hx, hy]
    exact ⟨hs.clear k hk, fun j hj => hs.apart j k hj hk⟩
  · have hbits := hs.bits _ _ (cellOf_lt hm.x0 hm.x1) (cellOf_lt hm.y0 hm.y1)
    have hempty := mt hbits.mpr (by simp [hfree])
    obtain ⟨hnone, hnobody⟩ := not_or.mp hempty
    exact ⟨Bool.not_eq_true _ ▸ hnone, fun j hj hx hy => absurd ⟨j, hj, hx, hy⟩ hnobody⟩

theorem cell_moved_same (hw : s.geom.w ≤ 32) (hh : s.geom.h ≤ 32) (hin : InField s k) :
    cellX (moved k s) k = cellOf (resolved s (readPart s k)).nx ∧
      cellY (moved k s) k = cellOf (resolved s (readPart s k)).ny := by
  obtain ⟨hx, hy⟩ := moved_coordinates hw hh hin
  rw [cellX, cellY, hx, hy]
  exact ⟨rfl, rfl⟩

theorem cell_moved_other (hw : s.geom.w ≤ 32) (hin : InField s k) {j : Nat} (hj : j ≠ k) :
    cellX (moved k s) j = cellX s j ∧ cellY (moved k s) j = cellY s j := by
  rw [cellX, cellY, readPart_moved hw hin, if_neg hj]
  exact ⟨rfl, rfl⟩

/-- Some active particle other than `k` is in the cell. -/
def OccupiedByOther (k : Nat) (s : State) (x y : Nat) : Prop :=
  ∃ j, j < s.p.count.toNat ∧ j ≠ k ∧ cellX s j = x ∧ cellY s j = y

/-- A cell is occupied by particle `k` or by another one. -/
theorem occupied_iff (hk : k < s.p.count.toNat) (x y : Nat) :
    (∃ j, j < s.p.count.toNat ∧ cellX s j = x ∧ cellY s j = y) ↔
      (cellX s k = x ∧ cellY s k = y) ∨ OccupiedByOther k s x y := by
  constructor
  · rintro ⟨j, hj, hcell⟩
    by_cases h : j = k
    · exact .inl (h ▸ hcell)
    · exact .inr ⟨j, hj, h, hcell⟩
  · rintro (hcell | ⟨j, hj, -, hcell⟩)
    · exact ⟨k, hk, hcell⟩
    · exact ⟨j, hj, hcell⟩

theorem occupiedByOther_moved (hw : s.geom.w ≤ 32) (hin : InField s k) (x y : Nat) :
    OccupiedByOther k (moved k s) x y ↔ OccupiedByOther k s x y := by
  simp only [OccupiedByOther, moved_p_count]
  refine exists_congr fun j => and_congr_right fun _ => and_congr_right fun hj => ?_
  rw [(cell_moved_other hw hin hj).1, (cell_moved_other hw hin hj).2]

/-- A move into the particle's own cell or a free one keeps the bitmap consistent (10_state.md R57): the cell it leaves
was its own alone, and nobody is in the cell it lands in. -/
theorem consistent_moved {obstacle : Nat → Nat → Bool} (hw : s.geom.w ≤ 32) (hh : s.geom.h ≤ 32) (hin : InField s k)
    (hk : k < s.p.count.toNat) (hlands : Lands s (readPart s k) (resolved s (readPart s k)))
    (hs : Consistent obstacle s) : Consistent obstacle (moved k s) := by
  have hbit := (movedTo_moved hw hin).bits
  obtain ⟨hclear, hapart⟩ := hs.landing hk (resolved_within hin.1 hin.2) hlands
  obtain ⟨hX, hY⟩ := cell_moved_same hw hh hin
  rw [← hX, ← hY] at hbit hclear hapart
  refine ⟨fun x y hxw hyh => ?bits, fun j hj => ?clear, fun i j hi hj hxx hyy => ?apart⟩
  case bits =>
    rw [moved_geom] at hxw hyh
    rw [occupied_iff (by rwa [moved_p_count]), occupiedByOther_moved hw hin, hbit]
    split
    next hnew => simp [hnew]
    next hnew =>
      have hleft : ¬(cellX (moved k s) k = x ∧ cellY (moved k s) k = y) := fun ⟨hx, hy⟩ => hnew ⟨hx.symm, hy.symm⟩
      split
      next hold =>
        have halone : ¬OccupiedByOther k s x y := fun ⟨j, hj, hjk, hjx, hjy⟩ =>
          hjk (hs.apart j k hj hk (hjx.trans hold.1) (hjy.trans hold.2))
        have hnone : obstacle x y = false := hold.1 ▸ hold.2 ▸ hs.clear k hk
        simp [hnone, hleft, halone]
      next hold =>
        have haway : ¬(cellX s k = x ∧ cellY s k = y) := fun ⟨hx, hy⟩ => hold ⟨hx.symm, hy.symm⟩
        rw [hs.bits x y hxw hyh, occupied_iff hk]
        simp only [hleft, haway]
  case clear =>
    rw [moved_p_count] at hj
    by_cases hjk : j = k
    · rw [hjk]
      exact hclear
    · rw [(cell_moved_other hw hin hjk).1, (cell_moved_other hw hin hjk).2]
      exact hs.clear j hj
  case apart =>
    rw [moved_p_count] at hi hj
    by_cases hik : i = k <;> by_cases hjk : j = k
    · rw [hik, hjk]
    · rw [hik, (cell_moved_other hw hin hjk).1] at hxx
      rw [hik, (cell_moved_other hw hin hjk).2] at hyy
      exact hik.trans (hapart j hj hxx.symm hyy.symm).symm
    · rw [hjk, (cell_moved_other hw hin hik).1] at hxx
      rw [hjk, (cell_moved_other hw hin hik).2] at hyy
      exact (hapart i hi hxx hyy).trans hjk.symm
    · rw [(cell_moved_other hw hin hik).1, (cell_moved_other hw hin hjk).1] at hxx
      rw [(cell_moved_other hw hin hik).2, (cell_moved_other hw hin hjk).2] at hyy
      exact hs.apart i j hi hj hxx hyy

/-- One move, of a particle inside the field and within the speed bound. -/
theorem passed_moved (hw : s.geom.w ≤ 32) (hh : s.geom.h ≤ 32) (hs : Contained s) (hv : SpeedBounded s)
    (hk : k < s.p.count.toNat) : Passed s (moved k s) where
  frame := engineFrame_moved k s
  rest j hj := (readPart_moved hw (hs k hk) j).trans (if_neg (by omega))
  colors := by
    refine .of_eq ?_
    simp only [placed, activeParts, List.map_map, moved_p_count]
    refine List.map_congr_left fun j _ => ?_
    change (readPart (moved k s) j).color = (readPart s j).color
    rw [readPart_moved hw (hs k hk)]
    split
    next h => rw [h, movedEntry]
    next => rfl
  contained := contained_moved hw hh (hs k hk)
  consistent hwide _ := by
    obtain ⟨hvx, hvy⟩ := abs_le_of_sq_add_sq_le (hv k hk)
    obtain ⟨hx, hy⟩ := hs k hk
    exact consistent_moved hw hh (hs k hk) hk (resolved_lands hwide hx hy hvx hvy)

theorem motionPass_cons (k : Nat) (l : List Nat) (s : State) : motionPass (k :: l) s = motionPass l (moved k s) := rfl

/-- The motion pass: every particle moves, and none of them raises. -/
theorem runEach_moveOp (l : List Nat) (s : State) (hw : s.geom.w ≤ 32) (hh : s.geom.h ≤ 32) (hs : Contained s)
    (hv : SpeedBounded s) (hl : ∀ k ∈ l, k < s.p.count.toNat) :
    runEach moveOp l s = .ok (motionPass l s) ∧ Passed s (motionPass l s) ∧ SpeedBounded (motionPass l s) := by
  induction l generalizing s with
  | nil => exact ⟨rfl, .refl s, hv⟩
  | cons k l ih =>
    obtain ⟨hk, hl⟩ := List.forall_mem_cons.mp hl
    have hpassed := passed_moved hw hh hs hv hk
    obtain ⟨hrun, hpass, hspeed⟩ := ih (moved k s) (by rwa [moved_geom]) (by rwa [moved_geom]) (hpassed.contained hs)
      (speedBounded_moved hw (hs k hk) hv hk) (by rwa [moved_p_count])
    rw [motionPass_cons]
    refine ⟨?_, hpassed.trans hpass, hspeed⟩
    rw [runEach_cons, moveOp_inside (hs k hk), Result.andThen_ok, hrun]

end MotionPass

/-! ## The whole of `iterate` (41_ppe.md R126, R141) -/

/-- The state that `iterate` comes to under containment. -/
def iterated (s : State) : State :=
  motionPass (List.range s.p.count.toNat) (accelAll (sortIfEnabled (scaleOp s)))

section Iterate

variable {s : State}

theorem iterate_spec (hw : s.geom.w ≤ 32) (hh : s.geom.h ≤ 32) (hcap : s.p.count.toNat ≤ capacity)
    (hs : Contained s) :
    iterate s = .ok (iterated s) ∧ Passed s (iterated s) ∧ SpeedBounded (iterated s) := by
  have hbefore := ((passed_scaleOp s).trans (passed_sortIfEnabled _)).trans (passed_accelAll _)
  have hspeed := speedBounded_accelAll (sortIfEnabled (scaleOp s))
  rw [iterate, withParticles_of_le hcap, iterated, moveAll, ← hbefore.frame.count]
  generalize accelAll (sortIfEnabled (scaleOp s)) = t at *
  obtain ⟨hrun, hpass, hbound⟩ := runEach_moveOp (List.range t.p.count.toNat) t (hbefore.frame.geom ▸ hw)
    (hbefore.frame.geom ▸ hh) (hbefore.contained hs) hspeed fun k hk => List.mem_range.mp hk
  exact ⟨hrun, hbefore.trans hpass, hbound⟩

/-- `PPE.ITER` with nothing in flight. -/
theorem exec_ppeIter (hidle : Idle s) (hflight : s.p.inflight = false) (hw : s.geom.w ≤ 32) (hh : s.geom.h ≤ 32)
    (hcap : s.p.count.toNat ≤ capacity) (hs : Contained s) :
    exec .ppeIter s = .next (complete (iterated (accept 0x13 s))) := by
  refine command_of_ok 0x13 (body := bodyPpeIter) hidle ?_
  rw [bodyPpeIter, gated_open (s := accept 0x13 s) 0x13 iterate hflight]
  exact (iterate_spec (s := accept 0x13 s) hw hh hcap hs).1

theorem geom_h_le (h : s.geom.wf = true) : s.geom.h ≤ 32 := by
  simp only [Geometry.wf, decide_eq_true_eq] at h
  exact h.2.2.2.1

end Iterate

/-- Settles O14: `iterate_spec`. -/
theorem iterateContainsAndBoundsSpeed : Obligations.IterateContainsAndBoundsSpeed := by
  intro s hidle hflight hwf hcap hs
  have hexec := exec_ppeIter hidle hflight (geom_w_le hwf) (geom_h_le hwf) hcap hs
  obtain ⟨-, hpass, hspeed⟩ :=
    iterate_spec (s := accept 0x13 s) (geom_w_le hwf) (geom_h_le hwf) hcap hs
  generalize iterated (accept 0x13 s) = t at *
  obtain ⟨_, _, _, _, _, _, hframe⟩ := hpass.frame
  have hcolors := hpass.colors
  simp only [placed, List.map_map] at hcolors
  refine ⟨_, hexec, ?_, hpass.contained hs, hspeed, hpass.rest, hcolors⟩
  rw [hframe]
  rfl

/-- Settles O15: `iterate_spec`, with the consistency that each part keeps. -/
theorem iterateKeepsBitmapConsistent : Obligations.IterateKeepsBitmapConsistent := by
  intro obstacle s hidle hflight hwf hwide hcap hs hconsistent
  have hexec := exec_ppeIter hidle hflight (geom_w_le hwf) (geom_h_le hwf) hcap hs
  obtain ⟨-, hpass, -⟩ :=
    iterate_spec (s := accept 0x13 s) (geom_w_le hwf) (geom_h_le hwf) hcap hs
  generalize iterated (accept 0x13 s) = t at *
  have hfinal := hpass.consistent hwide obstacle { hconsistent with }
  exact ⟨_, hexec, hpass.frame.count, { hfinal with }⟩

/-! ## A tick with nothing in flight (41_ppe.md R140)

The tick goes through the states of `PPE.ITER` and `PPE.SNAP` but for the opcode that acceptance latches, which neither
of them reads. -/

/-- The state with another opcode latched. -/
def withOpc (opc : BitVec 8) (s : State) : State := { s with p.opc := opc }

section Tick

variable {opc : BitVec 8}

theorem sortIfEnabled_withOpc (s : State) : sortIfEnabled (withOpc opc s) = withOpc opc (sortIfEnabled s) := by
  have hwrite : ∀ (l : List Particle) (k : Nat) (t : State),
      writeParts k l (withOpc opc t) = withOpc opc (writeParts k l t) := by
    intro l
    induction l with
    | nil => exact fun _ _ => rfl
    | cons q qs ih => exact fun k t => ih (k + 1) (writePart k q t)
  have hcfg : cfgSortEn (withOpc opc s) = cfgSortEn s := rfl
  unfold sortIfEnabled
  rw [hcfg]
  split
  · exact hwrite _ 0 { s with p.work := { s.p.work with dx := _, dy := _ } }
  · rfl

theorem popNat_withOpc (s : State) : popNat (withOpc opc s) = ((popNat s).1, withOpc opc (popNat s).2) := by
  unfold popNat withOpc
  dsimp only
  split <;> rfl

theorem draw_withOpc (hi : Nat) (s : State) :
    draw hi (withOpc opc s) = ((draw hi s).1, withOpc opc (draw hi s).2) := by
  simp only [draw, popNat_withOpc]

theorem accelOp_withOpc (k : Nat) (s : State) : accelOp k (withOpc opc s) = withOpc opc (accelOp k s) := by
  have hjmax : (withOpc opc s).p.work.jmax = s.p.work.jmax := rfl
  unfold accelOp
  simp only [hjmax, draw_withOpc]
  rfl

theorem moved_withOpc (k : Nat) (s : State) : moved k (withOpc opc s) = withOpc opc (moved k s) := rfl

theorem iterated_withOpc (s : State) : iterated (withOpc opc s) = withOpc opc (iterated s) := by
  have haccel : ∀ t, accelAll (withOpc opc t) = withOpc opc (accelAll t) := fun t =>
    List.foldl_hom (withOpc opc) fun t k => accelOp_withOpc k t
  have hscale : scaleOp (withOpc opc s) = withOpc opc (scaleOp s) := rfl
  rw [iterated, hscale, sortIfEnabled_withOpc, haccel]
  exact List.foldl_hom (withOpc opc) fun t k => moved_withOpc k t

theorem snapped_withOpc (s : State) : snapped (withOpc opc s) = withOpc opc (snapped s) := by
  have hentries : (List.range s.p.count.toNat).foldl (fun t k => snapEntry k t) (withOpc opc s) =
      withOpc opc ((List.range s.p.count.toNat).foldl (fun t k => snapEntry k t) s) :=
    List.foldl_hom (withOpc opc) fun _ _ => rfl
  exact congrArg (fun t : State => { t with p.stgCount := s.p.count }) hentries

/-- The pseudocode of a tick under containment: the motion, the snapshot, the send. -/
theorem bodyPpeTick_flightless {s : State} (hflight : s.p.inflight = false) (hw : s.geom.w ≤ 32)
    (hh : s.geom.h ≤ 32) (hcap : s.p.count.toNat ≤ capacity) (hs : Contained s) :
    bodyPpeTick s = sendOrWait (snapped { iterated { s with p.lastTimeout := false } with p.i := 0 }) := by
  obtain ⟨hrun, hpass, -⟩ := iterate_spec (s := { s with p.lastTimeout := false }) hw hh hcap hs
  unfold bodyPpeTick
  rw [if_neg (by simp [hflight]), bodyPpeIter, gated_open (s := { s with p.lastTimeout := false }) 0x13 iterate hflight,
    hrun, Result.andThen_ok]
  generalize iterated { s with p.lastTimeout := false } = t at *
  obtain ⟨_, _, _, _, _, _, rfl⟩ := hpass.frame
  exact snapAndSend_eq hflight hcap

end Tick

/-- Settles O19: the states of the three commands, written out from their frames, are those of the tick. -/
theorem tickIsIterateSnapSend : Obligations.TickIsIterateSnapSend := by
  intro s hidle hflight hwf hcap hs
  have hw := geom_w_le hwf
  have hh := geom_h_le hwf
  have hiter := exec_ppeIter (s := { s with p.lastTimeout := false }) hidle hflight hw hh hcap hs
  have htick : exec .ppeTick s = (bodyPpeTick (accept 0x15 s)).outcome complete := command_idle 0x15 bodyPpeTick hidle
  have hstart : { accept 0x15 s with p.lastTimeout := false } =
      withOpc 0x15 (accept 0x13 { s with p.lastTimeout := false }) := rfl
  rw [bodyPpeTick_flightless (s := accept 0x15 s) hflight hw hh hcap hs, hstart, iterated_withOpc] at htick
  obtain ⟨-, hpass, -⟩ := iterate_spec (s := accept 0x13 { s with p.lastTimeout := false }) hw hh hcap hs
  generalize iterated (accept 0x13 { s with p.lastTimeout := false }) = t at *
  obtain ⟨part, obm, work, i, oracle, fresh, hframe⟩ := hpass.frame
  have hsnap := exec_ppeSnap (s := complete t) ⟨by rw [hframe]; exact hidle.1, rfl⟩ (by rw [hframe]; exact hflight)
    (by rw [hframe]; exact hcap)
  have hsame : { withOpc 0x15 t with p.i := 0 } = withOpc 0x15 (accept 0x14 (complete t)) := by
    rw [hframe]
    rfl
  rw [hsame, snapped_withOpc] at htick
  obtain ⟨stg, hstaged⟩ := snapped_frame (accept 0x14 (complete t))
  generalize snapped (accept 0x14 (complete t)) = w at *
  have hseen : p2cFullSeen (withOpc 0x15 w) = p2cFullSeen s := by
    rw [hstaged, hframe]
    rfl
  refine ⟨_, _, hiter, hsnap, fun hempty => ?_, fun hfull => ?_⟩
  · rw [htick, sendOrWait_empty (hseen.trans hempty), hstaged, hframe]
    rfl
  · rw [htick, sendOrWait_full (hseen.trans hfull), hstaged, hframe]
    rfl

/-! ## The source scenario (90_conflicts.md C8, 95_test_vectors.md T6) -/

/-- The tilt `(128, 0, 0)` scaled: `ax2 = SCALE / 2 - 5`, `ay2 = -5`, and draws up to 10. -/
theorem scaleInputs_flat (scale : Nat) :
    scaleInputs scale 128 0 0 = ⟨(128 * scale / 256 : Nat) - 5, -5, 5, 10⟩ := by
  have hx : tdiv (128 * (scale : Int)) 256 = (128 * scale / 256 : Nat) := by
    rw [tdiv, Int.tdiv_eq_ediv_of_nonneg (by positivity)]
    norm_num
  have hy : tdiv (0 * (scale : Int)) 256 = 0 := by simp [tdiv]
  have hz : scaledAz scale 0 = 0 := by simp [scaledAz, tdiv]
  rw [scaleInputs, hz, hx, hy]
  rfl

/-- The particle of the scenario, at the centre of cell (0, 0), with a velocity. -/
def centred (color : Word) (v : Int × Int) : Particle := withVelocity ⟨128, 128, 0, 0, color⟩ v

section Scenario

variable {s : State} {color : Word}

theorem activeParts_one (h : s.p.count = 1) : activeParts s = [readPart s 0] := by
  rw [activeParts, h]
  rfl

/-- There is nothing to sort. -/
theorem readPart_sortIfEnabled_one (h : s.p.count = 1) : readPart (sortIfEnabled s) 0 = readPart s 0 := by
  obtain ⟨⟨part, dx, dy, hframe⟩, hperm, -⟩ := sortIfEnabled_spec s
  have hcount : (sortIfEnabled s).p.count = 1 := by rw [hframe, h]
  rw [activeParts_one h, activeParts_one hcount, List.perm_singleton] at hperm
  exact List.head_eq_of_cons_eq hperm

/-- The velocity pass over the one particle: at rest before, it has the tilt and two draws of at most 10, too slow for
the clamp. -/
theorem readPart_accelOp_flat {c : Nat} (hc : c ≤ 127) (hax : s.p.work.ax2 = (c : Int) - 5)
    (hay : s.p.work.ay2 = -5) (hjmax : s.p.work.jmax = 10) (hpart : readPart s 0 = ⟨128, 128, 0, 0, color⟩) :
    ∃ vx vy : Int, readPart (accelOp 0 s) 0 = centred color (vx, vy) ∧
      (c : Int) - 5 ≤ vx ∧ vx ≤ c + 5 ∧ -5 ≤ vy ∧ vy ≤ 5 := by
  obtain ⟨jx, jy, _, _, hjx, hjy, -, haccel⟩ := accelOp_spec 0 s
  rw [hjmax] at hjx hjy
  refine ⟨c - 5 + jx, -5 + jy, ?_, by omega, by omega, by omega, by omega⟩
  have hslow : ((c : Int) - 5 + jx) * ((c : Int) - 5 + jx) + (-5 + (jy : Int)) * (-5 + (jy : Int)) ≤ 65536 := by
    nlinarith
  have hrest : (0 : BitVec 16).toInt = 0 := rfl
  rw [haccel, readPart_writePart, if_pos rfl, hpart, accelerated, hax, hay, hrest, Int.zero_add, Int.zero_add,
    clampSpeed_of_le hslow]
  rfl

/-- With the cell to the right free, the particle goes where its velocity says. -/
theorem resolved_flat (hw : s.geom.w = 2) (hh : s.geom.h = 1) (hfree : obmBit s 1 0 = false) {vx vy : Int}
    (hvx : 0 ≤ vx) (hvx' : vx ≤ 256) (hvy : -5 ≤ vy) (hvy' : vy ≤ 5) :
    resolved s (centred color (vx, vy)) = ⟨128 + vx, 128 + vy, vx, vy⟩ := by
  have hx : (centred color (vx, vy)).x.toNat = 128 := rfl
  have hy : (centred color (vx, vy)).y.toNat = 128 := rfl
  have htx : (centred color (vx, vy)).vx.toInt = vx := toInt_ofInt_of_abs_le (abs_le.mpr ⟨by omega, hvx'⟩)
  have hty : (centred color (vx, vy)).vy.toInt = vy := toInt_ofInt_of_abs_le (abs_le.mpr ⟨by omega, by omega⟩)
  have hxmax : xmax s = 511 := by rw [xmax, hw]; rfl
  have hymax : ymax s = 255 := by rw [ymax, hh]; rfl
  have hcandidate : candidate s (centred color (vx, vy)) = ⟨128 + vx, 128 + vy, vx, vy⟩ := by
    have hinx : wallClamp (cfgElasticity s) 511 (128 : Nat) vx = (128 + vx, vx) :=
      (if_neg (by omega)).trans (if_neg (by omega))
    have hiny : wallClamp (cfgElasticity s) 255 (128 : Nat) vy = (128 + vy, vy) :=
      (if_neg (by omega)).trans (if_neg (by omega))
    rw [candidate, hx, hy, htx, hty, hxmax, hymax, hinx, hiny]
  have hrow : cellOf (128 + vy) = 0 := by
    unfold cellOf
    omega
  have hcolumn : cellOf (128 + vx) = 0 ∨ cellOf (128 + vx) = 1 := by
    unfold cellOf
    omega
  simp only [resolved, hcandidate, hx, hy, cellIndex, hrow]
  rcases hcolumn with hcolumn | hcolumn
  · rw [hcolumn]
    exact if_pos rfl
  · rw [hcolumn, hfree]
    simp

end Scenario

/-- Settles O17: one particle, so each pass is one operation; the ranges of the draws give the bounds. -/
theorem flatGravityMovesRight : Obligations.FlatGravityMovesRight := by
  intro s color hidle hflight hw hh hcount hpart hfree hscale _ hax hay haz
  have hscale' : cfgScale s ≤ 255 := Nat.le_of_lt_succ (s.p.cfg.extractLsb' 0 8).isLt
  have hs : Contained s := by
    intro k hk
    obtain rfl : k = 0 := by
      rw [hcount] at hk
      exact Nat.lt_one_iff.mp hk
    have hx : (readPart s 0).x.toNat = 128 := by rw [hpart]; rfl
    have hy : (readPart s 0).y.toNat = 128 := by rw [hpart]; rfl
    rw [InField, hx, hy, xmax, ymax, hw, hh]
    decide
  have hexec := exec_ppeIter hidle hflight (by omega) (by omega) (by rw [hcount]; decide) hs
  have hwork : scaleInputs (cfgScale s) (opAx (accept 0x13 s)) (opAy (accept 0x13 s)) (opAz (accept 0x13 s)) =
      ⟨(128 * cfgScale s / 256 : Nat) - 5, -5, 5, 10⟩ := by
    rw [← scaleInputs_flat]
    simp only [opAx, opAy, opAz, accept_p_x0, accept_p_x1, accept_p_x2, hax, hay, haz]
    rfl
  obtain ⟨⟨part, dx, dy, hsorted⟩, -, -⟩ := sortIfEnabled_spec (scaleOp (accept 0x13 s))
  have hentry := readPart_sortIfEnabled_one (s := scaleOp (accept 0x13 s)) hcount
  have honce : iterated (accept 0x13 s) = moved 0 (accelOp 0 (sortIfEnabled (scaleOp (accept 0x13 s)))) := by
    have hcount' : (sortIfEnabled (scaleOp (accept 0x13 s))).p.count = 1 := by rw [hsorted]; exact hcount
    rw [iterated, accelAll, hcount', accept_p_count, hcount]
    rfl
  rw [honce] at hexec
  generalize sortIfEnabled (scaleOp (accept 0x13 s)) = u at *
  obtain ⟨vx, vy, hflat, hvx, hvx', hvy, hvy'⟩ := readPart_accelOp_flat (s := u) (color := color)
    (c := 128 * cfgScale s / 256) (by omega)
    (by rw [hsorted]; exact congrArg Scaled.ax2 hwork) (by rw [hsorted]; exact congrArg Scaled.ay2 hwork)
    (by rw [hsorted]; exact congrArg Scaled.jmax hwork) (hentry.trans hpart)
  obtain ⟨hengine, hobm⟩ := accelOp_frame 0 u
  generalize accelOp 0 u = t at *
  have hgeom : t.geom = s.geom := by rw [hengine.geom, hsorted]; rfl
  have hright : obmBit t 1 0 = false := by
    rw [← hfree, obmBit, obmBit, obmRow, obmRow, hobm, hengine.epoch, hsorted]
    rfl
  have hin : InField t 0 := by
    rw [InField, hflat, xmax, ymax, hgeom, hw, hh]
    exact ⟨by change (128 : Int) ≤ _; norm_num, by change (128 : Int) ≤ _; norm_num⟩
  have hx := (moved_coordinates (by rw [hgeom]; omega) (by rw [hgeom]; omega) hin).1
  rw [hflat, resolved_flat (by rw [hgeom, hw]) (by rw [hgeom, hh]) hright (by omega) (by omega) hvy hvy'] at hx
  refine ⟨_, hexec, ?_⟩
  change _ ≤ (readPart (moved 0 t) 0).x.toNat ∧ (readPart (moved 0 t) 0).x.toNat ≤ _ ∧
    _ < (readPart (moved 0 t) 0).x.toNat ∧ (readPart (moved 0 t) 0).x.toNat ≤ _
  rw [hx]
  dsimp only
  omega

end Sys2Proof.Machine

/-! Proofs of the family `42_fsh.md`: the synchronisers (O43), the producer half of the handshake (O21 to O23), and the
handshake invariant: what it excludes (O52), and that every step keeps it (O51). The invariant says the same as the
place of the frame in flight (`Place`). The few operations that move the frame, and the synchronisers, are shown to lead
from place to place; every other operation is `Quiet`: it writes no field that the invariant is about. -/

namespace Sys2Proof.Machine

open Sys2Proof.Config

/-! ## The synchronisers (42_fsh.md R162) -/

section Synchronisers

variable {s : State} {rest : List Action}

theorem step_syncC (h : s.env.sched = .syncC :: rest) : step s = .next (syncCStep { s with env.sched := rest }) :=
  step_of_done (fetch_cons h)

theorem step_syncP (h : s.env.sched = .syncP :: rest) : step s = .next (syncPStep { s with env.sched := rest }) :=
  step_of_done (fetch_cons h)

/-- A run goes on from the state that its first step comes to. -/
theorem run_succ_of_next {t : State} (k : Nat) (h : step s = .next t) :
    Host.Core.run Sys2Proof.core (k + 1) s = Host.Core.run Sys2Proof.core k t := by
  have hcore : Sys2Proof.core.step s = .next t := h
  simp only [Host.Core.run, hcore]

/-- A run of two steps, from what each of them comes to. -/
theorem run_two {t u : State} (h : step s = .next t) (h' : step t = .next u) :
    Host.Core.run Sys2Proof.core 2 s = .next u := by
  rw [run_succ_of_next 1 h, run_succ_of_next 0 h']
  rfl

end Synchronisers

/-- Settles O43: one turn of either synchroniser, and then the second turn from the state the first one left. -/
theorem synchronisersShiftTheToggles : Obligations.SynchronisersShiftTheToggles := by
  refine ⟨fun s rest hs => ?turnC, fun s rest hs => ?turnP, fun s rest hs => ?visibleC, fun s rest hs => ?visibleP⟩
  case turnC => exact step_syncC hs
  case turnP => exact step_syncP hs
  case visibleC => exact ⟨_, run_two (step_syncC hs) (step_syncC rfl), rfl, rfl⟩
  case visibleP => exact ⟨_, run_two (step_syncP hs) (step_syncP rfl), rfl, rfl⟩

/-! ## The producer half of the handshake (42_fsh.md R163 to R165) -/

section ProducerHalf

variable {s : State}

theorem waitConsumed_home (h : s.p.inflight = false) : waitConsumed s = .ok { s with p.lastTimeout := false } := by
  simp [waitConsumed, h]

theorem exec_fshSendrdy (hidle : Idle s) (hin : s.p.inflight = false) :
    exec .fshSendrdy s = (sendOrWait (accept 0x20 s)).outcome complete := by
  rw [← gated_open (s := accept 0x20 s) 0x20 sendOrWait hin]
  exact command_idle 0x20 bodyFshSendrdy hidle

theorem exec_fshWaitcons (hidle : Idle s) :
    exec .fshWaitcons s = (waitConsumed (accept 0x21 s)).outcome complete :=
  command_idle 0x21 bodyFshWaitcons hidle

theorem exec_pWait (hrun : s.p.halt = false) : exec .pWait s = (waitStep s).outcome complete :=
  producerStep_running hrun fun s => (waitStep s).outcome complete

/-! What an edge of the wait is, by what the command waits for and by what the producer sees. -/

theorem waitStep_visible (hin : s.p.inflight = true) (hsees : c2pAvail s = true) :
    waitStep s =
      (takeConsumed s.c.c2pData s).andThen fun t => if t.p.opc = 0x15 then tickAfterWait t else .ok t := by
  simp [waitStep, waitEdge, hin, hsees]

theorem waitStep_nothing (hin : s.p.inflight = true) (hnone : c2pAvail s = false) :
    waitStep s = if (choose s).1 then .ok (timeoutWarning (choose s).2) else .pending (choose s).2 := by
  simp [waitStep, waitEdge, hin, hnone]

theorem waitStep_send (hin : s.p.inflight = false) (hopc : s.p.opc = 0x20 ∨ s.p.opc = 0x15) :
    waitStep s = sendOrWait s := by
  rw [waitStep, if_neg (by simp [hin]), if_pos hopc]

theorem waitStep_other (hin : s.p.inflight = false) (hsend : s.p.opc ≠ 0x20) (htick : s.p.opc ≠ 0x15) :
    waitStep s = .ok { s with p.lastTimeout := false } := by
  rw [waitStep, if_neg (by simp [hin]), if_neg (not_or.mpr ⟨hsend, htick⟩), waitConsumed_home hin]

end ProducerHalf

/-- Settles O21, by whether the slot is seen empty. -/
theorem sendReadyFillsTheSlot : Obligations.SendReadyFillsTheSlot := by
  intro s hidle hin
  rw [exec_fshSendrdy hidle hin]
  refine ⟨fun hempty => ?empty, fun hfull => ?full⟩
  case empty =>
    rw [sendOrWait_empty (s := accept 0x20 s) hempty]
    rfl
  case full =>
    rw [sendOrWait_full (s := accept 0x20 s) hfull]
    rfl

/-- Settles O22, by what the wait finds. -/
theorem waitConsumedReturnsOrWaits : Obligations.WaitConsumedReturnsOrWaits := by
  intro s hidle
  rw [exec_fshWaitcons hidle]
  refine ⟨fun hin => ?home, fun hin hsees hword => ?consumed, fun hin hsees hword => ?other, fun hin hnone => ?empty⟩
  case home =>
    rw [waitConsumed_home (s := accept 0x21 s) hin]
    rfl
  case consumed =>
    have hdata : (accept 0x21 s).c.c2pData = tokConsumedWord := hword
    rw [waitConsumed_visible (s := accept 0x21 s) hin hsees, hdata, takeConsumed_tokConsumedWord]
    rfl
  case other =>
    have hbad : (accept 0x21 s).c.c2pData ≠ tokConsumedWord := hword
    rw [waitConsumed_visible (s := accept 0x21 s) hin hsees, takeConsumed_bad hbad]
    rfl
  case empty =>
    rw [waitConsumed_empty (s := accept 0x21 s) hin hnone]
    rfl

/-- Settles O23, one case of the wait after the other. -/
theorem waitStepTakesTokenOrTimesOut : Obligations.WaitStepTakesTokenOrTimesOut := by
  intro s hrun
  rw [exec_pWait hrun]
  refine ⟨fun hin hsees hword => ?consumed, fun hin hsees hword => ?other, fun hin hnone => ?nothing,
    fun hin hopc => ?send, fun hin hsend htick => ?latched⟩
  case consumed =>
    have hdata : s.c.c2pData = tokConsumedWord := hword
    rw [waitStep_visible hin hsees, hdata, takeConsumed_tokConsumedWord, Result.andThen_ok]
    refine ⟨fun hother => ?_, fun htick => ?_⟩
    · rw [if_neg hother]
      rfl
    · rw [if_pos htick]
      rfl
  case other =>
    have hbad : s.c.c2pData ≠ tokConsumedWord := hword
    rw [waitStep_visible hin hsees, takeConsumed_bad hbad]
    rfl
  case nothing =>
    rw [waitStep_nothing hin hnone]
    refine ⟨fun htimeout => ?_, fun hgoesOn => ?_⟩
    · have hdrop : (choose s).2.p.dropCnt = s.p.dropCnt := congrArg Producer.dropCnt (choose_p s)
      rw [if_pos htimeout, ← hdrop]
      rfl
    · rw [hgoesOn]
      rfl
  case send =>
    rw [waitStep_send hin hopc]
    refine ⟨fun hempty => ?_, fun hfull => ?_⟩
    · rw [sendOrWait_empty hempty]
      rfl
    · rw [sendOrWait_full hfull]
      rfl
  case latched =>
    rw [waitStep_other hin hsend htick]
    rfl

/-! ## The four places of the frame (42_fsh.md R169)

A frame goes from P2C through the display into C2P and home. At each place the four toggles and what the two-flop chains
have seen of them are known, relative to the value `a` that all toggles had when the frame set out; `Handshake` is
nothing but these four cases (`Place.handshake`, `Handshake.place`). -/

/-- Nothing in flight: every toggle is `a`, and all of it is seen but perhaps the receive that came last. -/
structure AtHome (a : Bool) (s : State) : Prop where
  inflight : s.p.inflight = false
  redraw : s.c.redrawPending = false
  flip : s.c.flipPending = false
  p2cReq : s.p.p2cReq = a
  p2cAck : s.c.p2cAck = a
  c2pReq : s.c.c2pReq = a
  c2pAck : s.p.c2pAck = a
  seenP : s.p.p2cAckS1 = a ∧ s.p.p2cAckS2 = a ∧ s.p.c2pReqS1 = a ∧ s.p.c2pReqS2 = a
  seenReq : s.c.p2cReqS1 = a ∧ s.c.p2cReqS2 = a
  behind : s.c.c2pAckS2 = a → s.c.c2pAckS1 = a

/-- "Ready" is in P2C: once the consumer sees it, it sees the receive before it. -/
structure InP2c (a : Bool) (s : State) : Prop where
  inflight : s.p.inflight = true
  redraw : s.c.redrawPending = false
  flip : s.c.flipPending = false
  p2cReq : s.p.p2cReq = !a
  p2cAck : s.c.p2cAck = a
  c2pReq : s.c.c2pReq = a
  c2pAck : s.p.c2pAck = a
  token : s.p.p2cData = tokReadyWord
  seenP : s.p.p2cAckS1 = a ∧ s.p.p2cAckS2 = a ∧ s.p.c2pReqS1 = a ∧ s.p.c2pReqS2 = a
  first : s.c.p2cReqS1 = !a → s.c.c2pAckS1 = a
  second : s.c.p2cReqS2 = !a → s.c.c2pAckS2 = a ∧ s.c.p2cReqS1 = !a
  behind : s.c.c2pAckS2 = a → s.c.c2pAckS1 = a

/-- The frame is in the display, a redraw or a flip pending: all is seen but perhaps the poll. -/
structure InDisplay (a : Bool) (s : State) : Prop where
  inflight : s.p.inflight = true
  pending : s.c.flipPending = !s.c.redrawPending
  p2cReq : s.p.p2cReq = !a
  p2cAck : s.c.p2cAck = !a
  c2pReq : s.c.c2pReq = a
  c2pAck : s.p.c2pAck = a
  seenReq : s.p.c2pReqS1 = a ∧ s.p.c2pReqS2 = a
  behind : s.p.p2cAckS2 = !a → s.p.p2cAckS1 = !a
  seenC : s.c.p2cReqS1 = !a ∧ s.c.p2cReqS2 = !a ∧ s.c.c2pAckS1 = a ∧ s.c.c2pAckS2 = a

/-- "Consumed" is in C2P: once the producer sees it, it sees the poll before it. -/
structure InC2p (a : Bool) (s : State) : Prop where
  inflight : s.p.inflight = true
  redraw : s.c.redrawPending = false
  flip : s.c.flipPending = false
  p2cReq : s.p.p2cReq = !a
  p2cAck : s.c.p2cAck = !a
  c2pReq : s.c.c2pReq = !a
  c2pAck : s.p.c2pAck = a
  token : s.c.c2pData = tokConsumedWord
  first : s.p.c2pReqS1 = !a → s.p.p2cAckS1 = !a
  second : s.p.c2pReqS2 = !a → s.p.p2cAckS2 = !a ∧ s.p.c2pReqS1 = !a
  behind : s.p.p2cAckS2 = !a → s.p.p2cAckS1 = !a
  seenC : s.c.p2cReqS1 = !a ∧ s.c.p2cReqS2 = !a ∧ s.c.c2pAckS1 = a ∧ s.c.c2pAckS2 = a

/-- The place of the frame in flight. -/
inductive Place (a : Bool) (s : State) : Prop
  | home (h : AtHome a s)
  | p2c (h : InP2c a s)
  | display (h : InDisplay a s)
  | c2p (h : InC2p a s)

section Places

variable {a : Bool} {s : State}

/-- Every clause of the invariant speaks of fields that the place gives. -/
theorem Place.handshake (h : Place a s) : Handshake s := by
  cases h with
  | home h =>
    cases h
    constructor <;> simp_all [places, p2cFull, c2pFull]
  | p2c h =>
    cases h
    constructor <;> simp_all [places, p2cFull, c2pFull]
  | display h =>
    have hone : s.c.redrawPending.toNat + s.c.flipPending.toNat = 1 := by
      rw [h.pending]
      cases s.c.redrawPending <;> rfl
    cases h
    constructor <;> simp_all [places, p2cFull, c2pFull]
  | c2p h =>
    cases h
    constructor <;> simp_all [places, p2cFull, c2pFull]

/-- A slot is full exactly when its request toggle is ahead of its acknowledge toggle (42_fsh.md R161). -/
theorem p2cFull_iff (s : State) : p2cFull s = true ↔ s.p.p2cReq = !s.c.p2cAck := by
  rw [Bool.eq_not]
  exact bne_iff_ne

theorem p2cFull_eq_false_iff (s : State) : p2cFull s = false ↔ s.p.p2cReq = s.c.p2cAck := bne_eq_false_iff_eq

theorem c2pFull_iff (s : State) : c2pFull s = true ↔ s.c.c2pReq = !s.p.c2pAck := by
  rw [Bool.eq_not]
  exact bne_iff_ne

/-- None of the four flags is set if nothing is in flight, and else exactly one. -/
theorem one_place (inflight p2c redraw flip c2p : Bool)
    (h : p2c.toNat + redraw.toNat + flip.toNat + c2p.toNat = inflight.toNat) :
    (inflight = false ∧ redraw = false ∧ flip = false) ∨
    (inflight = true ∧ p2c = true ∧ redraw = false ∧ flip = false) ∨
    (inflight = true ∧ p2c = false ∧ flip = !redraw) ∨
    (inflight = true ∧ p2c = false ∧ c2p = true ∧ redraw = false ∧ flip = false) := by
  revert inflight p2c redraw flip c2p
  decide

/-- The equation of R169 says where the frame is; the other clauses of that place then say what the toggles are. The
acknowledge toggle of C2P moves last, so it tells the value with which the frame set out. -/
theorem Handshake.place (h : Handshake s) : Place s.p.c2pAck s := by
  rcases one_place _ _ _ _ _ h.conserved with
    ⟨hin, hredraw, hflip⟩ | ⟨hin, hfull, hredraw, hflip⟩ | ⟨hin, hempty, hpending⟩ |
    ⟨hin, hempty, hfull, hredraw, hflip⟩
  · obtain ⟨hreq, hack, hc2p⟩ := h.idle hin
    have hseenP := h.seenP (.inl hin)
    have hseenReq := h.seenAck hin
    rw [hreq, hack, hc2p] at hseenReq
    rw [hack, hc2p] at hseenP
    exact .home ⟨hin, hredraw, hflip, hreq.trans (hack.trans hc2p), hack.trans hc2p, hc2p, rfl, hseenP, hseenReq,
      h.behindC⟩
  · obtain ⟨hack, hc2p, htoken⟩ := h.ready hfull
    have hreq := (p2cFull_iff s).mp hfull
    have hseenP := h.seenP (.inr hfull)
    obtain ⟨hfirst, hsecond⟩ := h.orderC hfull
    rw [hack, hc2p] at hreq hseenP
    rw [hreq] at hfirst hsecond
    exact .p2c ⟨hin, hredraw, hflip, hreq, hack.trans hc2p, hc2p, rfl, htoken, hseenP, hfirst, hsecond, h.behindC⟩
  · have hshown : s.c.redrawPending = true ∨ s.c.flipPending = true := by
      rw [hpending]
      cases s.c.redrawPending <;> decide
    obtain ⟨hne, hc2p⟩ := h.shown hshown
    have hreq := (p2cFull_eq_false_iff s).mp hempty
    have hack := Bool.eq_not.mpr hne
    have hseenReq := h.seenReq hshown
    have hseenC := h.seenC hempty hin
    have hbehind := h.behindP
    rw [hc2p] at hack hseenReq
    rw [hack] at hreq hbehind
    rw [hreq] at hseenC
    exact .display ⟨hin, hpending, hreq, hack, hc2p, rfl, hseenReq, hbehind, hseenC⟩
  · obtain ⟨hreq, hack, htoken⟩ := h.consumed hfull
    have hc2p := (c2pFull_iff s).mp hfull
    obtain ⟨hfirst, hsecond⟩ := h.orderP hfull
    have hseenC := h.seenC hempty hin
    have hbehind := h.behindP
    rw [hack, hc2p] at hreq hfirst hsecond hbehind
    rw [hreq] at hseenC
    exact .c2p ⟨hin, hredraw, hflip, hreq, hack.trans hc2p, hc2p, rfl, htoken, hfirst, hsecond, hbehind, hseenC⟩

/-! ### What a domain sees of a channel tells the place (42_fsh.md R170) -/

theorem inP2c_of_p2cAvail (h : Handshake s) (hsees : p2cAvail s = true) :
    InP2c s.p.c2pAck s ∧ s.c.p2cReqS2 = !s.p.c2pAck := by
  have hahead : s.c.p2cReqS2 = !s.c.p2cAck := Bool.eq_not.mpr (bne_iff_ne.mp hsees)
  cases h.place with
  | home h =>
    obtain ⟨-, hreq⟩ := h.seenReq
    simp [hreq, h.p2cAck] at hahead
  | p2c h => exact ⟨h, h.p2cAck ▸ hahead⟩
  | display h =>
    obtain ⟨-, hreq, -⟩ := h.seenC
    simp [hreq, h.p2cAck] at hahead
  | c2p h =>
    obtain ⟨-, hreq, -⟩ := h.seenC
    simp [hreq, h.p2cAck] at hahead

theorem inC2p_of_c2pAvail (h : Handshake s) (hsees : c2pAvail s = true) :
    InC2p s.p.c2pAck s ∧ s.p.c2pReqS2 = !s.p.c2pAck := by
  have hahead : s.p.c2pReqS2 = !s.p.c2pAck := Bool.eq_not.mpr (bne_iff_ne.mp hsees)
  cases h.place with
  | home h =>
    obtain ⟨-, -, -, hreq⟩ := h.seenP
    simp [hreq] at hahead
  | p2c h =>
    obtain ⟨-, -, -, hreq⟩ := h.seenP
    simp [hreq] at hahead
  | display h =>
    obtain ⟨-, hreq⟩ := h.seenReq
    simp [hreq] at hahead
  | c2p h => exact ⟨h, hahead⟩

theorem atHome_of_not_inflight (h : Handshake s) (hin : s.p.inflight = false) : AtHome s.p.c2pAck s := by
  cases h.place with
  | home h => exact h
  | p2c h => exact Bool.noConfusion (hin.symm.trans h.inflight)
  | display h => exact Bool.noConfusion (hin.symm.trans h.inflight)
  | c2p h => exact Bool.noConfusion (hin.symm.trans h.inflight)

theorem inDisplay_of_pending (h : Handshake s) (hpending : s.c.redrawPending = true ∨ s.c.flipPending = true) :
    InDisplay s.p.c2pAck s := by
  cases h.place with
  | home h => simp [h.redraw, h.flip] at hpending
  | p2c h => simp [h.redraw, h.flip] at hpending
  | display h => exact h
  | c2p h => simp [h.redraw, h.flip] at hpending

/-! ### The moves from place to place -/

theorem handshake_sendReady (h : Handshake s) (hin : s.p.inflight = false) : Handshake (sendReady s) := by
  have home := atHome_of_not_inflight h hin
  obtain ⟨hreq1, hreq2⟩ := home.seenReq
  exact Place.handshake (a := s.p.c2pAck) (.p2c
    { inflight := rfl
      redraw := home.redraw
      flip := home.flip
      p2cReq := congrArg (!·) home.p2cReq
      p2cAck := home.p2cAck
      c2pReq := home.c2pReq
      c2pAck := rfl
      token := rfl
      seenP := home.seenP
      first := fun hseen => by simp [hreq1] at hseen
      second := fun hseen => by simp [hreq2] at hseen
      behind := home.behind })

/-- The consumer takes a visible "ready": a redraw is pending (42_fsh.md R166). -/
theorem handshake_polled (h : Handshake s) (hsees : p2cAvail s = true) :
    Handshake { s with c.p2cAck := !s.c.p2cAck, c.redrawPending := true } := by
  obtain ⟨hp2c, hseen⟩ := inP2c_of_p2cAvail h hsees
  obtain ⟨hack2, hreq1⟩ := hp2c.second hseen
  obtain ⟨-, hpack2, hpreq1, hpreq2⟩ := hp2c.seenP
  exact Place.handshake (a := s.p.c2pAck) (.display
    { inflight := hp2c.inflight
      pending := hp2c.flip
      p2cReq := hp2c.p2cReq
      p2cAck := congrArg (!·) hp2c.p2cAck
      c2pReq := hp2c.c2pReq
      c2pAck := rfl
      seenReq := ⟨hpreq1, hpreq2⟩
      behind := fun hlate => by simp [hpack2] at hlate
      seenC := ⟨hreq1, hseen, hp2c.first hreq1, hack2⟩ })

/-- The frame stays in the display when its redraw is complete (43_bpd.md R194). -/
theorem handshake_redrawComplete (h : Handshake s) (hredraw : s.c.redrawPending = true) :
    Handshake (redrawComplete s) := by
  have hshown := inDisplay_of_pending h (.inl hredraw)
  exact Place.handshake (.display { hshown with pending := rfl })

/-- The consumer sends "consumed" and clears the flip (42_fsh.md R167, 43_bpd.md R198). -/
theorem handshake_flipped (h : Handshake s) (hflip : s.c.flipPending = true) :
    Handshake { s with c.c2pData := tokConsumedWord, c.c2pReq := !s.c.c2pReq, c.flipPending := false } := by
  have hshown := inDisplay_of_pending h (.inr hflip)
  have hredraw : s.c.redrawPending = false := by simpa [hflip] using hshown.pending
  obtain ⟨hreq1, hreq2⟩ := hshown.seenReq
  exact Place.handshake (a := s.p.c2pAck) (.c2p
    { inflight := hshown.inflight
      redraw := hredraw
      flip := rfl
      p2cReq := hshown.p2cReq
      p2cAck := hshown.p2cAck
      c2pReq := congrArg (!·) hshown.c2pReq
      c2pAck := rfl
      token := rfl
      first := fun hseen => by simp [hreq1] at hseen
      second := fun hseen => by simp [hreq2] at hseen
      behind := hshown.behind
      seenC := hshown.seenC })

/-- The producer takes a visible "consumed": the frame is home, every toggle at its other value (42_fsh.md R164). -/
theorem handshake_received (h : Handshake s) (hsees : c2pAvail s = true) :
    Handshake { s with p.c2pAck := !s.p.c2pAck, p.inflight := false, p.lastTimeout := false } := by
  obtain ⟨hc2p, hseen⟩ := inC2p_of_c2pAvail h hsees
  obtain ⟨hack2, hreq1⟩ := hc2p.second hseen
  obtain ⟨hcreq1, hcreq2, -, hcack2⟩ := hc2p.seenC
  exact Place.handshake (a := !s.p.c2pAck) (.home
    { inflight := rfl
      redraw := hc2p.redraw
      flip := hc2p.flip
      p2cReq := hc2p.p2cReq
      p2cAck := hc2p.p2cAck
      c2pReq := hc2p.c2pReq
      c2pAck := rfl
      seenP := ⟨hc2p.first hreq1, hack2, hreq1, hseen⟩
      seenReq := ⟨hcreq1, hcreq2⟩
      behind := fun hlate => by simp [hcack2] at hlate })

/-! ### The synchronisers (42_fsh.md R162): the frame stays where it is -/

theorem handshake_syncPStep (h : Handshake s) : Handshake (syncPStep s) := by
  suffices hplace : Place s.p.c2pAck (syncPStep s) from hplace.handshake
  cases h.place with
  | home h =>
    obtain ⟨hack1, -, hreq1, -⟩ := h.seenP
    exact .home { h with seenP := ⟨h.p2cAck, hack1, h.c2pReq, hreq1⟩ }
  | p2c h =>
    obtain ⟨hack1, -, hreq1, -⟩ := h.seenP
    exact .p2c { h with seenP := ⟨h.p2cAck, hack1, h.c2pReq, hreq1⟩ }
  | display h =>
    obtain ⟨hreq1, -⟩ := h.seenReq
    exact .display { h with seenReq := ⟨h.c2pReq, hreq1⟩, behind := fun _ => h.p2cAck }
  | c2p h =>
    exact .c2p { h with
      first := fun _ => h.p2cAck
      second := fun hseen => ⟨h.first hseen, h.c2pReq⟩
      behind := fun _ => h.p2cAck }

theorem handshake_syncCStep (h : Handshake s) : Handshake (syncCStep s) := by
  suffices hplace : Place s.p.c2pAck (syncCStep s) from hplace.handshake
  cases h.place with
  | home h =>
    obtain ⟨hreq1, -⟩ := h.seenReq
    exact .home { h with seenReq := ⟨h.p2cReq, hreq1⟩, behind := fun _ => h.c2pAck }
  | p2c h =>
    exact .p2c { h with
      first := fun _ => h.c2pAck
      second := fun hseen => ⟨h.first hseen, h.p2cReq⟩
      behind := fun _ => h.c2pAck }
  | display h =>
    obtain ⟨hreq1, -, hack1, -⟩ := h.seenC
    exact .display { h with seenC := ⟨h.p2cReq, hreq1, h.c2pAck, hack1⟩ }
  | c2p h =>
    obtain ⟨hreq1, -, hack1, -⟩ := h.seenC
    exact .c2p { h with seenC := ⟨h.p2cReq, hreq1, h.c2pAck, hack1⟩ }

end Places

/-! ## What the invariant excludes (42_fsh.md R170, R172, R173) -/

section Excluded

variable {s : State}

theorem inP2c_of_p2cFull (h : Handshake s) (hfull : p2cFull s = true) : InP2c s.p.c2pAck s := by
  have hahead := (p2cFull_iff s).mp hfull
  cases h.place with
  | home h => simp [h.p2cReq, h.p2cAck] at hahead
  | p2c h => exact h
  | display h => simp [h.p2cReq, h.p2cAck] at hahead
  | c2p h => simp [h.p2cReq, h.p2cAck] at hahead

theorem inC2p_of_c2pFull (h : Handshake s) (hfull : c2pFull s = true) : InC2p s.p.c2pAck s := by
  have hahead := (c2pFull_iff s).mp hfull
  cases h.place with
  | home h => simp [h.c2pReq] at hahead
  | p2c h => simp [h.c2pReq] at hahead
  | display h => simp [h.c2pReq] at hahead
  | c2p h => exact h

theorem p2cFullSeen_of_not_inflight (h : Handshake s) (hin : s.p.inflight = false) : p2cFullSeen s = false := by
  have home := atHome_of_not_inflight h hin
  obtain ⟨-, hack2, -, -⟩ := home.seenP
  simp [p2cFullSeen, home.p2cReq, hack2]

theorem c2pFullSeen_of_flipPending (h : Handshake s) (hflip : s.c.flipPending = true) : c2pFullSeen s = false := by
  have hshown := inDisplay_of_pending h (.inr hflip)
  obtain ⟨-, -, -, hack2⟩ := hshown.seenC
  simp [c2pFullSeen, hshown.c2pReq, hack2]

theorem p2cData_of_p2cAvail (h : Handshake s) (hsees : p2cAvail s = true) : s.p.p2cData = tokReadyWord :=
  (inP2c_of_p2cAvail h hsees).1.token

theorem c2pData_of_c2pAvail (h : Handshake s) (hsees : c2pAvail s = true) : s.c.c2pData = tokConsumedWord :=
  (inC2p_of_c2pAvail h hsees).1.token

theorem p2cFullSeen_of_p2cFull (h : Handshake s) (hfull : p2cFull s = true) : p2cFullSeen s = true := by
  have hp2c := inP2c_of_p2cFull h hfull
  obtain ⟨-, hack2, -, -⟩ := hp2c.seenP
  simp [p2cFullSeen, hp2c.p2cReq, hack2]

theorem c2pFullSeen_of_c2pFull (h : Handshake s) (hfull : c2pFull s = true) : c2pFullSeen s = true := by
  have hc2p := inC2p_of_c2pFull h hfull
  obtain ⟨-, -, -, hack2⟩ := hc2p.seenC
  simp [c2pFullSeen, hc2p.c2pReq, hack2]

end Excluded

/-- Settles O52: what is seen or pending tells the place of the frame, and the place gives the rest. -/
theorem handshakeExcludesItsFaults : Obligations.HandshakeExcludesItsFaults := by
  intro s h
  refine ⟨p2cFullSeen_of_not_inflight h, c2pFullSeen_of_flipPending h, fun hsees => ?p2cSeen, fun hsees => ?c2pSeen,
    p2cFullSeen_of_p2cFull h, c2pFullSeen_of_c2pFull h, fun ⟨hredraw, hflip⟩ => ?onePending,
    fun ⟨hp2c, hc2p⟩ => ?oneFull⟩
  case p2cSeen =>
    obtain ⟨hp2c, -⟩ := inP2c_of_p2cAvail h hsees
    have hfull : p2cFull s = true := (p2cFull_iff s).mpr (by rw [hp2c.p2cReq, hp2c.p2cAck])
    exact ⟨hfull, hp2c.token, hp2c.redraw, hp2c.flip⟩
  case c2pSeen =>
    obtain ⟨hc2p, -⟩ := inC2p_of_c2pAvail h hsees
    exact ⟨(c2pFull_iff s).mpr hc2p.c2pReq, hc2p.token, hc2p.inflight⟩
  case onePending =>
    have hpending := (inDisplay_of_pending h (.inl hredraw)).pending
    simp [hredraw, hflip] at hpending
  case oneFull =>
    have hreq := (inC2p_of_c2pFull h hc2p).c2pReq
    simp [(inP2c_of_p2cFull h hp2c).c2pReq] at hreq

/-! ## What leaves the channels alone -/

/-- The fields that `Handshake` is about: those of the two channels (10_state.md R37 to R39), and the three flags of the
frame (R36, R50). -/
structure Signals where
  inflight : Bool
  redrawPending : Bool
  flipPending : Bool
  p2cReq : Bool
  p2cData : Word
  p2cAck : Bool
  c2pReq : Bool
  c2pData : Word
  c2pAck : Bool
  p2cAckS1 : Bool
  p2cAckS2 : Bool
  c2pReqS1 : Bool
  c2pReqS2 : Bool
  p2cReqS1 : Bool
  p2cReqS2 : Bool
  c2pAckS1 : Bool
  c2pAckS2 : Bool

def signals (s : State) : Signals where
  inflight := s.p.inflight
  redrawPending := s.c.redrawPending
  flipPending := s.c.flipPending
  p2cReq := s.p.p2cReq
  p2cData := s.p.p2cData
  p2cAck := s.c.p2cAck
  c2pReq := s.c.c2pReq
  c2pData := s.c.c2pData
  c2pAck := s.p.c2pAck
  p2cAckS1 := s.p.p2cAckS1
  p2cAckS2 := s.p.p2cAckS2
  c2pReqS1 := s.p.c2pReqS1
  c2pReqS2 := s.p.c2pReqS2
  p2cReqS1 := s.c.p2cReqS1
  p2cReqS2 := s.c.p2cReqS2
  c2pAckS1 := s.c.c2pAckS1
  c2pAckS2 := s.c.c2pAckS2

/-- Nothing that the handshake is about has changed since `b`. An update of other fields inherits it as it stands. -/
def Quiet (b s : State) : Prop := signals s = signals b

theorem Result.Meets.imp {P Q : State → Prop} {r : Result} (h : r.Meets P) (hPQ : ∀ t, P t → Q t) : r.Meets Q := by
  cases h with
  | ok ht => exact .ok (hPQ _ ht)
  | pending ht => exact .pending (hPQ _ ht)
  | raised ht => exact .raised (hPQ _ ht)
  | stop f => exact .stop f

section Quiet

variable {b s t : State}

theorem Quiet.refl (s : State) : Quiet s s := rfl

theorem Quiet.ite {c : Prop} [Decidable c] (hs : Quiet b s) (ht : Quiet b t) : Quiet b (if c then s else t) := by
  split
  · exact hs
  · exact ht

theorem Quiet.trans (h : Quiet b s) (h' : Quiet s t) : Quiet b t := Eq.trans h' h

theorem Quiet.handshake (h : Quiet b s) (hb : Handshake b) : Handshake s := by
  obtain ⟨_, ⟨⟩, ⟨⟩, _⟩ := b
  obtain ⟨_, ⟨⟩, ⟨⟩, _⟩ := s
  cases h
  exact { hb with }

theorem Result.Meets.handshake {r : Result} (hr : r.Meets (Quiet b)) (hb : Handshake b) : r.Meets Handshake :=
  hr.imp fun _ h => h.handshake hb

/-- A quiet part, and then a rest that ends in the handshake. -/
theorem Result.handshake_andThen {r : Result} {f : State → Result} (hb : Handshake b)
    (hr : r.Meets (Quiet b)) (hf : ∀ s, Quiet b s → (f s).Meets Handshake) : (r.andThen f).Meets Handshake := by
  cases hr with
  | ok hs => exact hf _ hs
  | pending hs => exact .pending (hs.handshake hb)
  | raised hs => exact .raised (hs.handshake hb)
  | stop f => exact .stop f

/-! ### Free inputs, reads and positions -/

theorem quiet_popNat (s : State) : Quiet s (popNat s).2 := by
  rw [popNat_state]
  exact .refl s

theorem quiet_nextAction (s : State) : Quiet s (nextAction s).2 := by
  unfold nextAction
  split
  · exact .refl s
  · exact .refl s

theorem Drew.quiet (h : Drew s t) : Quiet s t := by
  obtain ⟨_, _, rfl⟩ := h
  exact .refl s

theorem EngineFrame.quiet (h : EngineFrame s t) : Quiet s t := by
  obtain ⟨_, _, _, _, _, _, rfl⟩ := h
  exact .refl s

theorem Repositioned.quiet (h : Repositioned s t) : Quiet s t := by
  obtain ⟨_, _, _, rfl⟩ := h
  exact .refl s

theorem SameButFree.quiet (h : SameButFree s t) : Quiet s t := by
  rw [h]
  exact .refl s

theorem quiet_memRead (h : Quiet b s) (addr : Word) : Quiet b (memRead addr s).2 := h.trans (drew_memRead addr s).quiet

theorem quiet_bgRead (h : Quiet b s) (x y : Nat) : Quiet b (bgRead x y s).2 := by
  unfold bgRead
  split
  · exact h
  · exact h.trans (quiet_popNat s)

theorem quiet_fbWrite (h : Quiet b s) (buffer : Bool) (k : Nat) (v : Word) : Quiet b (fbWrite buffer k v s) := by
  cases buffer with
  | false => exact h
  | true => exact h

/-! ### The bitmap and the loads -/

theorem quiet_obmPut (h : Quiet b s) (v : Bool) (cx cy : Nat) : (obmPut v cx cy s).Meets (Quiet b) := by
  obtain ⟨-, e⟩ | ⟨-, e⟩ := obmPut_cases v cx cy s <;> rw [e]
  · exact .ok h
  · exact .raised h

theorem quiet_obmGet (h : Quiet b s) (cx cy : Nat) {rest : Bool → Result} (hrest : ∀ v, (rest v).Meets (Quiet b)) :
    (obmGet cx cy rest s).Meets (Quiet b) := by
  obtain ⟨-, e⟩ | ⟨-, e⟩ := obmGet_cases cx cy rest s <;> rw [e]
  · exact hrest _
  · exact .raised h

theorem quiet_obmClearAll (s : State) : Quiet s (obmClearAll s) :=
  List.foldlRecOn (motive := Quiet s) _ _ (.refl s) fun _ ht _ _ => ht

theorem quiet_loadPixel (h : Quiet b s) (base : Word) (k : Nat) : Quiet b (loadPixel base k s) := by
  have hread := quiet_memRead h (base + BitVec.ofNat 32 (4 * k))
  exact .ite hread hread

theorem quiet_bodyPpeLdbg (s : State) : (bodyPpeLdbg s).Meets (Quiet s) := by
  unfold bodyPpeLdbg
  split
  · exact .ok (List.foldlRecOn (motive := Quiet s) _ _ (.refl s) fun _ ht k _ => quiet_loadPixel ht _ k)
  · exact .raised (.refl s)

theorem quiet_loadTriple (base : Word) (k : Nat) (s : State) (h : Quiet b s) :
    (loadTriple base k s).Meets (Quiet b) := by
  unfold loadTriple
  extract_lets rx ry rc cx cy
  have hread : Quiet b rc.2 := quiet_memRead (quiet_memRead (quiet_memRead h _) _) _
  clear_value rc cx cy
  split
  · refine quiet_obmPut ?_ _ _ _
    exact hread
  · exact .raised hread

theorem quiet_bodyPpeLdpart (s : State) : (bodyPpeLdpart s).Meets (Quiet s) := by
  unfold bodyPpeLdpart
  split
  · exact .raised (.refl s)
  · split
    · exact Result.meets_andThen (meets_runEach (quiet_loadTriple _) _ (.refl s)) fun _ ht => .ok ht
    · exact .raised (.refl s)

/-! ### The engine -/

theorem quiet_withParticles {rest : State → Result} (hrest : (rest s).Meets (Quiet b)) :
    (withParticles s rest).Meets (Quiet b) := by
  obtain ⟨-, e⟩ | ⟨-, e⟩ := withParticles_cases s rest <;> rw [e]
  · exact .stop _
  · exact hrest

theorem quiet_sortIfEnabled (s : State) : Quiet s (sortIfEnabled s) := by
  obtain ⟨⟨_, _, _, hframe⟩, -⟩ := sortIfEnabled_spec s
  rw [hframe]
  exact .refl s

theorem quiet_accelAll (s : State) : Quiet s (accelAll s) := (foldl_accelOp_spec _ s).1.quiet

theorem quiet_commitMove (h : Quiet b s) (k : Nat) (q : Particle) (m : Motion) : (commitMove k q m s).Meets (Quiet b) :=
  Result.meets_andThen (quiet_obmPut h _ _ _) fun _ hcleared =>
    Result.meets_andThen (quiet_obmPut hcleared _ _ _) fun _ hset => .ok hset

theorem quiet_resolveHit (h : Quiet b s) (k : Nat) (q : Particle) (delta : Nat) (m : Motion) :
    (resolveHit k q delta m s).Meets (Quiet b) := by
  unfold resolveHit
  dsimp only
  split
  · exact quiet_commitMove h _ _ _
  · split
    · exact quiet_commitMove h _ _ _
    · exact quiet_obmGet h _ _ fun _ => quiet_obmGet h _ _ fun _ => quiet_commitMove h _ _ _

theorem quiet_moveOp (k : Nat) (s : State) (h : Quiet b s) : (moveOp k s).Meets (Quiet b) := by
  unfold moveOp
  extract_lets q m oldidx newidx delta w1 p1 s1
  have hstart : Quiet b s1 := h
  split
  · exact quiet_commitMove hstart _ _ _
  · refine quiet_obmGet hstart _ _ fun hit => ?_
    cases hit with
    | false => exact quiet_commitMove hstart _ _ _
    | true => exact quiet_resolveHit hstart _ _ _ _

theorem quiet_iterate (s : State) : (iterate s).Meets (Quiet s) :=
  quiet_withParticles (meets_runEach quiet_moveOp _ ((quiet_sortIfEnabled (scaleOp s)).trans (quiet_accelAll _)))

theorem quiet_snapshot (s : State) : (snapshot s).Meets (Quiet s) := by
  apply quiet_withParticles
  obtain ⟨⟨_, hframe⟩, -⟩ := foldl_snapEntry_spec (List.range s.p.count.toNat) s
  rw [hframe]
  exact .ok (.refl s)

/-! ### The redraw slices -/

theorem quiet_sliceClearBody (s : State) : (sliceClearBody s).Meets (Quiet s) := by
  unfold sliceClearBody
  split
  · have hrow : Quiet s ((List.range s.geom.size).foldl (fun t x => clearPixel s.c.rowCursor.toNat x t) s) :=
      List.foldlRecOn _ _ (.refl s) fun _ ht x _ => quiet_fbWrite (quiet_bgRead ht x _) _ _ _
    exact .ok hrow
  · exact .stop _

theorem quiet_drawStaged (k : Nat) (s : State) (h : Quiet b s) : (drawStaged k s).Meets (Quiet b) := by
  unfold drawStaged
  dsimp only
  split
  · split
    · exact .raised h
    · exact .ok (quiet_fbWrite h _ _ _)
  · exact .stop _

/-! ### The register ports and the helper agents -/

theorem quiet_illegalCommand (w : Word) (s : State) : Quiet s (illegalCommand w s) := by
  obtain ⟨-, e⟩ | ⟨-, -, e⟩ | ⟨-, e⟩ := illegalCommand_cases w s <;> rw [e] <;> exact .refl s

theorem quiet_pAccessRead (size : AccessSize) (off : Word) (s : State) : Quiet s (pAccessRead size off s) := by
  obtain ⟨t, ht, v, hread⟩ := pAccessRead_frame size off s
  rw [hread]
  exact ht.quiet

theorem quiet_pAccessWrite (size : AccessSize) (off v : Word) (s : State) : Quiet s (pAccessWrite size off v s) := by
  unfold pAccessWrite pPortWrite
  split
  · split
    case h_4 | h_5 | h_6 => exact .ite (.refl s) (.refl s)
    all_goals exact .refl s
  · exact .refl s

theorem quiet_cPortWrite (off v : Word) (s : State) : Quiet s (cPortWrite off v s) := by
  unfold cPortWrite
  split
  case h_1 => exact .ite (.ite (.refl s) (.refl s)) (.refl s)
  case h_2 | h_3 => exact .ite (.refl s) (.refl s)
  case h_4 => exact .refl s

theorem quiet_cAccess (access : BusAccess) (s : State) : Quiet s (cAccess access s) := by
  cases access with
  | read size off =>
    obtain ⟨t, ht, v, hread⟩ := cAccessRead_frame size off s
    rw [cAccess, hread]
    exact ht.quiet
  | write size off v =>
    simp only [cAccess, cAccessWrite]
    split
    · exact quiet_cPortWrite off v s
    · exact .refl s

theorem quiet_dmaStep (s : State) : NextMeets (Quiet s) (dmaStep s) := by
  unfold dmaStep
  split
  · exact .next (.refl s)
  · split
    · exact .next (.refl s)
    · exact .fault _

theorem quiet_shiftWord (h : Quiet b s) (w : Word) : NextMeets (Quiet b) (shiftWord w s) := by
  unfold shiftWord
  split
  · exact .next h
  · split
    · exact .next h
    · split
      · exact .next h
      · exact .fault _

theorem quiet_shStep (s : State) : NextMeets (Quiet s) (shStep s) := by
  unfold shStep
  split
  · exact .next (.refl s)
  · split
    · exact .next (.refl s)
    · refine quiet_shiftWord ?_ _
      exact .refl s

theorem quiet_rsStep (s : State) : Quiet s (rsStep s) := .ite (.refl s) (.refl s)

end Quiet

/-! ## Every operation keeps the handshake

What is quiet keeps it at once; the other operations make the moves above, and the invariant excludes their faults. -/

section Keeps

variable {s : State}

/-! ### The frames of an operation -/

theorem handshake_command (h : Handshake s) (opc : BitVec 8) {body : State → Result}
    (hbody : ∀ s, Handshake s → (body s).Meets Handshake) : NextMeets Handshake (command opc body s) := by
  obtain ⟨-, e⟩ | ⟨-, -, e⟩ | ⟨-, e⟩ := command_cases opc body s <;> rw [e]
  · exact .next h
  · exact .next { h with }
  · exact Result.nextMeets_outcome (hbody _ { h with }) fun _ ht => { ht with }

theorem handshake_producerStep (h : Handshake s) {f : State → Host.Outcome State Fault Refusal}
    (hf : NextMeets Handshake (f s)) : NextMeets Handshake (producerStep f s) := by
  obtain ⟨-, e⟩ | ⟨-, e⟩ := producerStep_cases f s <;> rw [e]
  · exact .next h
  · exact hf

/-- A turn that performs a pseudocode and then moves the sequencer on. -/
theorem handshake_producerRuns (h : Handshake s) {body : State → Result} {done : State → State}
    (hbody : (body s).Meets Handshake) (hdone : ∀ t, Quiet t (done t)) :
    NextMeets Handshake (producerStep (fun s => (body s).outcome done) s) :=
  handshake_producerStep h (Result.nextMeets_outcome hbody fun t => (hdone t).handshake)

theorem handshake_consumerStep (h : Handshake s) {f : State → Host.Outcome State Fault Refusal}
    (hf : NextMeets Handshake (f s)) : NextMeets Handshake (consumerStep f s) := by
  obtain ⟨-, e⟩ | ⟨-, e⟩ := consumerStep_cases f s <;> rw [e]
  · exact .next h
  · exact hf

theorem handshake_consumerRuns (h : Handshake s) {body : State → Result} {done : State → State}
    (hbody : (body s).Meets Handshake) (hdone : ∀ t, Quiet t (done t)) :
    NextMeets Handshake (consumerStep (fun s => (body s).outcome done) s) :=
  handshake_consumerStep h (Result.nextMeets_outcome hbody fun t => (hdone t).handshake)

/-- The gate opens only with nothing in flight (42_fsh.md R168). -/
theorem handshake_gated (h : Handshake s) (opc : BitVec 8) {body : State → Result}
    (hbody : s.p.inflight = false → (body s).Meets Handshake) : (gated opc body s).Meets Handshake := by
  obtain ⟨-, e⟩ | ⟨hin, e⟩ := gated_cases opc body s <;> rw [e]
  · exact .raised { h with }
  · exact hbody hin

/-! ### The producer domain -/

theorem handshake_bodyPpeIter (h : Handshake s) : (bodyPpeIter s).Meets Handshake :=
  handshake_gated h _ fun _ => (quiet_iterate s).handshake h

theorem handshake_bodyPpeSnap (h : Handshake s) : (bodyPpeSnap s).Meets Handshake :=
  handshake_gated h _ fun _ => (quiet_snapshot s).handshake h

theorem handshake_sendOrWait (h : Handshake s) (hin : s.p.inflight = false) : (sendOrWait s).Meets Handshake := by
  rw [sendOrWait_empty (p2cFullSeen_of_not_inflight h hin)]
  exact .ok (handshake_sendReady h hin)

theorem handshake_bodyFshSendrdy (h : Handshake s) : (bodyFshSendrdy s).Meets Handshake :=
  handshake_gated h _ (handshake_sendOrWait h)

theorem handshake_takeConsumed (h : Handshake s) (hsees : c2pAvail s = true) :
    (takeConsumed s.c.c2pData s).Meets Handshake := by
  rw [c2pData_of_c2pAvail h hsees, takeConsumed_tokConsumedWord]
  exact .ok (handshake_received h hsees)

theorem handshake_waitConsumed (h : Handshake s) : (waitConsumed s).Meets Handshake := by
  unfold waitConsumed
  split
  · split
    next hsees => exact handshake_takeConsumed h hsees
    next => exact .pending { h with }
  · exact .ok { h with }

theorem handshake_tickAfterWait (h : Handshake s) : (tickAfterWait s).Meets Handshake := .pending { h with }

theorem handshake_snapAndSend (h : Handshake s) : (snapAndSend s).Meets Handshake :=
  Result.meets_andThen (handshake_bodyPpeSnap h) fun _ => handshake_bodyFshSendrdy

theorem handshake_bodyPpeTick (h : Handshake s) : (bodyPpeTick s).Meets Handshake := by
  unfold bodyPpeTick
  split
  · exact Result.meets_andThen (handshake_waitConsumed h) fun _ => handshake_tickAfterWait
  · exact Result.meets_andThen (handshake_bodyPpeIter { h with }) fun _ ht => handshake_snapAndSend { ht with }

theorem quiet_bodyObmGet (s : State) : (bodyObmGet s).Meets (Quiet s) :=
  quiet_obmGet (.refl s) _ _ fun _ => .ok (.refl s)

theorem handshake_inProgress (h : Handshake s) : (inProgress s).Meets Handshake := by
  unfold inProgress
  split
  next => exact (quiet_obmPut (.refl s) _ _ _).handshake h
  next => exact (quiet_obmPut (.refl s) _ _ _).handshake h
  next => exact (quiet_bodyObmGet s).handshake h
  next => exact .ok ((quiet_obmClearAll s).handshake h)
  next => exact (quiet_bodyPpeLdbg s).handshake h
  next => exact (quiet_bodyPpeLdpart s).handshake h
  next => exact .ok ((quiet_obmClearAll s).handshake h)
  next => exact handshake_bodyPpeIter h
  next => exact handshake_bodyPpeSnap h
  next => exact handshake_snapAndSend h
  next => exact handshake_bodyFshSendrdy h
  next => exact handshake_waitConsumed h
  next => exact .ok h
  next => exact .raised { h with }

theorem handshake_waitStep (h : Handshake s) : (waitStep s).Meets Handshake := by
  have hchoose : Handshake (choose s).2 := (quiet_popNat s).handshake h
  unfold waitStep waitEdge
  split
  next =>
    split
    next hsees =>
      refine Result.meets_andThen (handshake_takeConsumed h hsees) fun t ht => ?_
      split
      · exact handshake_tickAfterWait ht
      · exact .ok ht
    next =>
      split
      · exact .ok { hchoose with }
      · exact .pending hchoose
  next hin =>
    split
    · exact handshake_sendOrWait h (by simpa using hin)
    · exact handshake_waitConsumed h

theorem handshake_execPScale (h : Handshake s) : NextMeets Handshake (execPScale s) :=
  handshake_producerStep h (.next { h with })

theorem handshake_execPSort (h : Handshake s) : NextMeets Handshake (execPSort s) := by
  refine handshake_producerRuns h ?_ fun t => (repositioned_toVelocity t).quiet
  exact Result.Meets.handshake (quiet_withParticles (.ok (quiet_sortIfEnabled s))) h

theorem handshake_execPAccel (h : Handshake s) : NextMeets Handshake (execPAccel s) := by
  refine handshake_producerRuns h ?_ fun t => (repositioned_afterAccel t).quiet
  have haccel := (accelOp_frame s.p.i.toNat s).1.quiet
  exact Result.Meets.handshake (quiet_withParticles (.ok (haccel.ite (.refl s)))) h

theorem handshake_execPMove (h : Handshake s) : NextMeets Handshake (execPMove s) := by
  refine handshake_producerRuns h ?_ fun t => (repositioned_afterMove t).quiet
  refine Result.Meets.handshake (quiet_withParticles ?_) h
  split
  · exact quiet_moveOp _ s (.refl s)
  · exact .ok (.refl s)

theorem handshake_execTokConsumed (h : Handshake s) : NextMeets Handshake (execTokConsumed s) := by
  refine handshake_producerStep h ?_
  split
  next hsees =>
    rw [takeConsumed_tokConsumedWord]
    exact .next (handshake_received h hsees)
  next => exact .next h

/-! ### The consumer domain -/

theorem handshake_execCSetbit (h : Handshake s) : NextMeets Handshake (execCSetbit s) :=
  handshake_consumerStep h (.next { h with })

theorem handshake_execCDmastart (h : Handshake s) : NextMeets Handshake (execCDmastart s) :=
  handshake_consumerStep h (.next { h with })

theorem handshake_execCWaitdma (h : Handshake s) : NextMeets Handshake (execCWaitdma s) :=
  handshake_consumerStep h (.next (Quiet.handshake (.ite (.refl s) (.refl s)) h))

theorem handshake_execCDummy2 (h : Handshake s) : NextMeets Handshake (execCDummy2 s) :=
  handshake_consumerStep h (.next { h with })

theorem handshake_execCWaitstrobe (h : Handshake s) : NextMeets Handshake (execCWaitstrobe s) :=
  handshake_consumerStep h (.next (Quiet.handshake (.ite (.refl s) (.refl s)) h))

theorem handshake_execCStrobe (h : Handshake s) : NextMeets Handshake (execCStrobe s) :=
  handshake_consumerStep h (.next { h with })

theorem handshake_execCNext (h : Handshake s) : NextMeets Handshake (execCNext s) :=
  handshake_consumerStep h (.next (Quiet.handshake (.ite (.refl s) (.ite (.refl s) (.refl s))) h))

theorem handshake_execCPoll (h : Handshake s) : NextMeets Handshake (execCPoll s) := by
  refine handshake_consumerRuns h ?_ fun t => .refl t
  unfold pollReady
  split
  next hsees =>
    rw [p2cData_of_p2cAvail h hsees, takeReady_tokReadyWord]
    exact .ok (handshake_polled h hsees)
  next => exact .ok h

/-- The redraw can only complete where one is pending. -/
theorem handshake_sliceParticlesBody (h : Handshake s) (hredraw : s.c.redrawPending = true) :
    (sliceParticlesBody s).Meets Handshake := by
  refine Result.handshake_andThen h (meets_runEach quiet_drawStaged _ (.refl s)) fun t ht => .ok ?_
  have hkept := ht.handshake h
  split
  · have hpending : t.c.redrawPending = true := (congrArg Signals.redrawPending ht).trans hredraw
    refine handshake_redrawComplete ?_ hpending
    exact { hkept with }
  · exact { hkept with }

theorem handshake_sliceBody (h : Handshake s) (hredraw : s.c.redrawPending = true) : (sliceBody s).Meets Handshake := by
  unfold sliceBody
  split
  next => exact (quiet_sliceClearBody s).handshake h
  next => exact handshake_sliceParticlesBody h hredraw
  next => exact .ok { h with }
  next => exact .raised { h with }

theorem handshake_execCRedraw (h : Handshake s) : NextMeets Handshake (execCRedraw s) := by
  have hchoose := quiet_popNat s
  refine handshake_consumerStep h ?_
  split
  next heligible =>
    obtain ⟨-, hredraw⟩ := (Bool.and_eq_true _ _).mp heligible
    have hpending : (choose s).2.c.redrawPending = true := (congrArg Signals.redrawPending hchoose).trans hredraw
    have hkept : Handshake (choose s).2 := hchoose.handshake h
    split
    · exact Result.nextMeets_outcome (handshake_sliceBody hkept hpending) fun _ => id
    · exact .next { hkept with }
  next => exact .next { h with }

theorem sendConsumed_empty (h : c2pFullSeen s = false) :
    sendConsumed s = .ok { s with c.c2pData := tokConsumedWord, c.c2pReq := !s.c.c2pReq } := by
  simp [sendConsumed, h]

theorem handshake_flipBody (h : Handshake s) (hflip : s.c.flipPending = true) : (flipBody s).Meets Handshake := by
  have hseen := c2pFullSeen_of_flipPending h hflip
  have hflipped := handshake_flipped h hflip
  rw [flipBody, sendConsumed_empty (s := { s with c.front := !s.c.front, c.frameCount := s.c.frameCount + 1 }) hseen,
    Result.andThen_ok]
  exact .ok { hflipped with }

theorem handshake_execCFlip (h : Handshake s) : NextMeets Handshake (execCFlip s) := by
  refine handshake_consumerRuns h ?_ fun t => .refl t
  split
  next hflip => exact handshake_flipBody h hflip
  next => exact .ok h

theorem handshake_execTokReady (h : Handshake s) : NextMeets Handshake (execTokReady s) := by
  refine handshake_consumerStep h ?_
  split
  next hsees =>
    rw [takeReady_tokReadyWord]
    exact .next (handshake_polled h hsees)
  next => exact .next h

/-! ### Every operation that an act runs -/

/-- The operations that are part of a turn of agent `C` at `C.POLL`, `C.REDRAW` or `C.FLIP`. By themselves they do not
keep the handshake, and no act runs them so. -/
def turnParts : List Instr := [.sliceParticles, .fshPollrdy, .fshSendcons, .bpdSlice]

theorem decodeConsumer_not_mem_turnParts : ∀ code, decodeConsumer code ∉ turnParts := by decide

theorem not_mem_turnParts_of_isConsumerOp {i : Instr} (h : isConsumerOp i = false) : i ∉ turnParts := by
  intro hi
  simp only [turnParts, List.mem_cons, List.not_mem_nil, or_false] at hi
  rcases hi with rfl | rfl | rfl | rfl <;> exact absurd h (by decide)

theorem handshake_exec {i : Instr} (hi : i ∉ turnParts) (h : Handshake s) : NextMeets Handshake (exec i s) := by
  cases i with
  | nop => exact handshake_command h _ fun _ => .ok
  | obmSet => exact handshake_command h _ fun s hs => (quiet_obmPut (.refl s) _ _ _).handshake hs
  | obmClr => exact handshake_command h _ fun s hs => (quiet_obmPut (.refl s) _ _ _).handshake hs
  | obmGet => exact handshake_command h _ fun s hs => (quiet_bodyObmGet s).handshake hs
  | obmClrall => exact handshake_command h _ fun s hs => .ok ((quiet_obmClearAll s).handshake hs)
  | ppeLdbg => exact handshake_command h _ fun s hs => (quiet_bodyPpeLdbg s).handshake hs
  | ppeLdpart => exact handshake_command h _ fun s hs => (quiet_bodyPpeLdpart s).handshake hs
  | ppeClrall => exact handshake_command h _ fun s hs => .ok ((quiet_obmClearAll s).handshake hs)
  | ppeIter => exact handshake_command h _ fun _ => handshake_bodyPpeIter
  | ppeSnap => exact handshake_command h _ fun _ => handshake_bodyPpeSnap
  | ppeTick => exact handshake_command h _ fun _ => handshake_bodyPpeTick
  | fshSendrdy => exact handshake_command h _ fun _ => handshake_bodyFshSendrdy
  | fshWaitcons => exact handshake_command h _ fun _ => handshake_waitConsumed
  | cOff => exact handshake_consumerStep h (.next h)
  | cSetbit => exact handshake_execCSetbit h
  | cDmastart => exact handshake_execCDmastart h
  | cPoll => exact handshake_execCPoll h
  | cWaitdma => exact handshake_execCWaitdma h
  | cDummy2 => exact handshake_execCDummy2 h
  | cRedraw => exact handshake_execCRedraw h
  | cWaitstrobe => exact handshake_execCWaitstrobe h
  | cStrobe => exact handshake_execCStrobe h
  | cNext => exact handshake_execCNext h
  | cFlip => exact handshake_execCFlip h
  | cHalted => exact handshake_consumerStep h (.next h)
  | pIdle => exact handshake_producerStep h (.next h)
  | pScale => exact handshake_execPScale h
  | pSort => exact handshake_execPSort h
  | pAccel => exact handshake_execPAccel h
  | pMove => exact handshake_execPMove h
  | pExec => exact handshake_producerRuns h (handshake_inProgress h) fun t => .refl t
  | pWait => exact handshake_producerRuns h (handshake_waitStep h) fun t => .refl t
  | pHalted => exact handshake_producerStep h (.next h)
  | sliceIdle => exact handshake_consumerRuns h (.ok { h with }) fun t => .refl t
  | sliceClear => exact handshake_consumerRuns h ((quiet_sliceClearBody s).handshake h) fun t => .refl t
  | tokReady => exact handshake_execTokReady h
  | tokConsumed => exact handshake_execTokConsumed h
  | sliceParticles | fshPollrdy | fshSendcons | bpdSlice => exact absurd hi (by decide)

/-! ### Every act -/

theorem handshake_fetchCommand (h : Handshake s) (w : Word) : NextMeets Handshake (fetchCommand w s).outcome := by
  unfold fetchCommand
  split
  next i hi => exact handshake_exec (not_mem_turnParts_of_isConsumerOp (isConsumerOp_of_decodeCommand hi)) h
  next => exact .next ((quiet_illegalCommand w s).handshake h)

theorem handshake_perform (a : Action) (h : Handshake s) : NextMeets Handshake (perform a s).outcome := by
  cases a with
  | hostP access =>
    cases access with
    | read size off => exact .next ((quiet_pAccessRead size off s).handshake h)
    | write size off v =>
      simp only [perform, fetchPAccess]
      split
      · exact handshake_fetchCommand h v
      · exact .next ((quiet_pAccessWrite size off v s).handshake h)
  | hostC access => exact .next ((quiet_cAccess access s).handshake h)
  | hostMem address value => exact .next { h with }
  | background x y value => exact .next { h with }
  | reset =>
    have hreset := handshake_resetWith s.geom
    exact .next { hreset with }
  | agentP => exact handshake_exec (not_mem_turnParts_of_isConsumerOp (isConsumerOp_decodeProducer _)) h
  | agentC => exact handshake_exec (decodeConsumer_not_mem_turnParts _) h
  | agentDma => exact (quiet_dmaStep s).imp fun _ ht => ht.handshake h
  | agentSh => exact (quiet_shStep s).imp fun _ ht => ht.handshake h
  | agentRs => exact .next ((quiet_rsStep s).handshake h)
  | syncP => exact .next (handshake_syncPStep h)
  | syncC => exact .next (handshake_syncCStep h)

end Keeps

/-- Settles O51: the next act is taken from the list (`quiet_nextAction`) and keeps the invariant
(`handshake_perform`). -/
theorem stepKeepsHandshake : Obligations.StepKeepsHandshake := by
  intro s t h ht
  have hperform := handshake_perform (nextAction s).1 ((quiet_nextAction s).handshake h)
  exact (nextMeets_next t).mp (ht ▸ step_eq_outcome s ▸ hperform)

end Sys2Proof.Machine

/-! Proofs of the family `43_bpd.md`: the micro-operations of the slot (O33 to O38), the helper agents (O42), the address
of a pixel (O57), the redraw slices (O39, O40), and one slot of the display (O60). Each micro-operation has its equation
in a domain that is not halted, each shared part of one an equation per case; the slices and the slot are assembled from
them by an induction over what has been drawn, transferred or shifted so far. -/

namespace Sys2Proof.Machine

open Sys2Proof.Config

/-! ## The micro-operations of the slot (43_bpd.md R184 to R198)

What a turn of agent `C` comes to, in a domain that is not halted. -/

section Slot

variable {s : State}

theorem exec_cSetbit (hrun : s.c.halt = false) :
    exec .cSetbit s = .next { s with c.shBit := s.c.bit, c.shCount := 0, c.cphase := 2 } := by
  rw [exec, execCSetbit, consumerStep_running hrun]
  rfl

theorem exec_cDmastart (hrun : s.c.halt = false) :
    exec .cDmastart s = .next { s with
      c.dmaIdx := BitVec.ofNat 11 (s.c.row.toNat * rowWords s), c.dmaRem := BitVec.ofNat 7 (rowWords s)
      c.dmaBusy := true, c.cphase := 3 } := by
  rw [exec, execCDmastart, consumerStep_running hrun]
  rfl

theorem exec_cDummy2 (hrun : s.c.halt = false) :
    exec .cDummy2 s = .next { s with c.shFifo := s.c.shFifo ++ [0, 0], c.cphase := 6 } := by
  rw [exec, execCDummy2, consumerStep_running hrun]
  rfl

theorem exec_cStrobe (hrun : s.c.halt = false) :
    exec .cStrobe s = .next { s with
      c.shLine := [], c.rsRow := s.c.row, c.rsBit := s.c.bit, c.rsWidth := pulseWidth s, c.rsBusy := true
      c.trace := s.c.trace ++ [Event.rowOut s.c.row s.c.bit s.c.shLine (pulseWidth s)], c.cphase := 9 } := by
  rw [exec, execCStrobe, consumerStep_running hrun]
  rfl

theorem exec_cWaitdma (hrun : s.c.halt = false) :
    exec .cWaitdma s = .next (if s.c.dmaBusy then s else toPhase 5 s) := by
  rw [exec, execCWaitdma, consumerStep_running hrun]

theorem exec_cWaitdma_idle (hrun : s.c.halt = false) (hidle : s.c.dmaBusy = false) :
    exec .cWaitdma s = .next { s with c.cphase := 5 } := by
  rw [exec_cWaitdma hrun, hidle]
  rfl

theorem exec_cWaitstrobe (hrun : s.c.halt = false) :
    exec .cWaitstrobe s = .next (if strobeReady s then toPhase 8 s else s) := by
  rw [exec, execCWaitstrobe, consumerStep_running hrun]

theorem strobeReady_iff (s : State) :
    strobeReady s = true ↔ s.c.rsBusy = false ∧ s.c.shFifo = [] ∧ s.c.shCount.toNat = rowWords s + 2 := by
  simp [strobeReady, and_assoc]

theorem exec_cWaitstrobe_ready (hrun : s.c.halt = false)
    (hready : s.c.rsBusy = false ∧ s.c.shFifo = [] ∧ s.c.shCount.toNat = rowWords s + 2) :
    exec .cWaitstrobe s = .next { s with c.cphase := 8 } := by
  rw [exec_cWaitstrobe hrun, if_pos ((strobeReady_iff s).mpr hready)]
  rfl

theorem exec_cNext (hrun : s.c.halt = false) :
    exec .cNext s = .next (
      if s.c.bit.toNat < 7 then { s with c.bit := s.c.bit + 1, c.cphase := 1 }
      else if s.c.row.toNat + 1 < scan s then { s with c.bit := bitLo s, c.row := s.c.row + 1, c.cphase := 1 }
      else { s with c.cphase := 10 }) := by
  rw [exec, execCNext, consumerStep_running hrun]
  rfl

end Slot

/-- Settles O33, one equation for each operation. -/
theorem slotOperationsWriteTheirRegisters : Obligations.SlotOperationsWriteTheirRegisters := fun _ hrun =>
  ⟨exec_cSetbit hrun, exec_cDmastart hrun, exec_cDummy2 hrun, exec_cStrobe hrun⟩

/-- Settles O34: each wait is a choice on its condition. -/
theorem slotWaitsHoldUntilReady : Obligations.SlotWaitsHoldUntilReady := by
  intro s hrun
  refine ⟨fun hidle => exec_cWaitdma_idle hrun hidle, fun hbusy => ?busy,
    fun hready => exec_cWaitstrobe_ready hrun hready, fun hnot => ?notReady⟩
  case busy => rw [exec_cWaitdma hrun, if_pos hbusy]
  case notReady => rw [exec_cWaitstrobe hrun, if_neg (hnot ∘ (strobeReady_iff s).mp)]

/-- Settles O35: the branches of R197 in their order; the test of each branch keeps its increment below the width. -/
theorem nextAdvancesTheSlot : Obligations.NextAdvancesTheSlot := by
  refine ⟨rfl, fun s hrun => ⟨fun hbit => ⟨?bit, ?bitFits⟩, fun hlast hrow => ⟨?row, fun hsize => ?rowFits⟩,
    fun hlast hrow => ?frameEnd⟩⟩
  case bit => rw [exec_cNext hrun, if_pos hbit]
  case bitFits => bv_omega
  case row => rw [exec_cNext hrun, if_neg (by omega), if_pos hrow]
  case rowFits =>
    have hfits : s.c.row.toNat + 1 < 32 := by
      unfold scan at hrow
      omega
    bv_omega
  case frameEnd => rw [exec_cNext hrun, if_neg (by omega), if_neg (by omega)]

/-! ### The poll (43_bpd.md R186, 42_fsh.md R166) -/

section Poll

variable {s : State} {rest : Bool → State → Result}

theorem pollReady_nothing (hnone : p2cAvail s = false) : pollReady rest s = rest false s := by
  simp [pollReady, hnone]

theorem pollReady_token (hsees : p2cAvail s = true) (htoken : s.p.p2cData = tokReadyWord) :
    pollReady rest s = rest true { s with c.p2cAck := !s.c.p2cAck } := by
  rw [pollReady, if_pos hsees, htoken, takeReady_tokReadyWord, Result.andThen_ok]

theorem pollReady_badToken (hsees : p2cAvail s = true) (hbad : s.p.p2cData ≠ tokReadyWord) :
    pollReady rest s =
      .raised (faultedConsumer 9 (s.p.p2cData.extractLsb' 0 24) { s with c.p2cAck := !s.c.p2cAck }) := by
  obtain ⟨htoken, -⟩ | ⟨-, htake⟩ := takeReady_cases s.p.p2cData s
  · exact absurd htoken hbad
  · rw [pollReady, if_pos hsees, htake]
    rfl

theorem exec_cPoll (hrun : s.c.halt = false) :
    exec .cPoll s =
      (pollReady (fun got t => .ok (if got then { t with c.redrawPending := true } else t)) s).outcome (toPhase 4) := by
  rw [exec, execCPoll, consumerStep_running hrun]

theorem exec_fshPollrdy (hrun : s.c.halt = false) :
    exec .fshPollrdy s = (pollReady (fun _ t => .ok t) s).outcome id := by
  rw [exec, execFshPollrdy, consumerStep_running hrun]

theorem exec_cPoll_nothing (hrun : s.c.halt = false) (hnone : p2cAvail s = false) :
    exec .cPoll s = .next { s with c.cphase := 4 } := by
  rw [exec_cPoll hrun, pollReady_nothing hnone]
  rfl

end Poll

/-- Settles O36, by what the poll finds. -/
theorem pollTakesAVisibleToken : Obligations.PollTakesAVisibleToken := by
  intro s hrun
  refine ⟨fun hnone => ⟨exec_cPoll_nothing hrun hnone, ?_⟩, fun hsees htoken => ?token, fun hsees hbad => ?badToken⟩
  · rw [exec_fshPollrdy hrun, pollReady_nothing hnone]
    rfl
  case token =>
    rw [exec_cPoll hrun, exec_fshPollrdy hrun, pollReady_token hsees htoken, pollReady_token hsees htoken]
    exact ⟨rfl, rfl⟩
  case badToken =>
    rw [exec_cPoll hrun, exec_fshPollrdy hrun, pollReady_badToken hsees hbad, pollReady_badToken hsees hbad]
    exact ⟨rfl, rfl⟩

/-! ### The choice of a slice (43_bpd.md R189 to R191) -/

section Redraw

variable {s : State}

theorem redrawEligible_iff (s : State) :
    redrawEligible s = true ↔ cfgRedrawMinBit s ≤ s.c.bit.toNat ∧ s.c.redrawPending = true := by
  simp [redrawEligible]

theorem exec_cRedraw (hrun : s.c.halt = false) :
    exec .cRedraw s =
      if redrawEligible s then
        if (choose s).1 then (sliceBody (choose s).2).outcome id else .next (toPhase 7 (choose s).2)
      else .next (toPhase 7 s) := by
  rw [exec, execCRedraw, consumerStep_running hrun]

theorem exec_cRedraw_closed (hrun : s.c.halt = false) (hclosed : redrawEligible s = false) :
    exec .cRedraw s = .next { s with c.cphase := 7 } := by
  rw [exec_cRedraw hrun, hclosed]
  rfl

theorem exec_cRedraw_open (hrun : s.c.halt = false) (hopen : redrawEligible s = true) :
    exec .cRedraw s =
      if (choose s).1 then (sliceBody (choose s).2).outcome id else .next (toPhase 7 (choose s).2) := by
  rw [exec_cRedraw hrun, if_pos hopen]

theorem exec_bpdSlice (hrun : s.c.halt = false) : exec .bpdSlice s = (sliceBody s).outcome id := by
  rw [exec, execBpdSlice, consumerStep_running hrun]

theorem exec_sliceIdle (hrun : s.c.halt = false) :
    exec .sliceIdle s = .next { s with c.rstate := 1, c.rowCursor := 0, c.partCursor := 0 } := by
  rw [exec, execSliceIdle, consumerStep_running hrun]
  rfl

theorem exec_sliceClear (hrun : s.c.halt = false) : exec .sliceClear s = (sliceClearBody s).outcome id := by
  rw [exec, execSliceClear, consumerStep_running hrun]

theorem exec_sliceParticles (hrun : s.c.halt = false) : exec .sliceParticles s = (sliceParticlesBody s).outcome id := by
  rw [exec, execSliceParticles, consumerStep_running hrun]

/-- The slice of each code of `rstate` (30_encoding.md R104, 60_exceptions.md R229). -/
theorem sliceBody_idle (hcode : s.c.rstate = 0) : sliceBody s = sliceIdleBody s := by
  rw [sliceBody, hcode]
  rfl

theorem sliceBody_clear (hcode : s.c.rstate = 1) : sliceBody s = sliceClearBody s := by
  rw [sliceBody, hcode]
  rfl

theorem sliceBody_particles (hcode : s.c.rstate = 2) : sliceBody s = sliceParticlesBody s := by
  rw [sliceBody, hcode]
  rfl

theorem sliceBody_impossible (hcode : s.c.rstate = 3) :
    sliceBody s = .raised (faultedConsumer 10 (s.c.cfg.extractLsb' 0 24) s) := by
  rw [sliceBody, hcode]
  rfl

end Redraw

/-- Settles O37: the two branches of the slot, and the slice of each code. -/
theorem redrawChoosesSliceOrGoesOn : Obligations.RedrawChoosesSliceOrGoesOn := by
  intro s hrun
  refine ⟨fun hclosed => ?goesOn, fun hopen => ⟨fun hgo => ?declined, fun htake => ?taken⟩, fun hcode => ?idle,
    fun hcode => ?clear, fun hcode => ?particles, fun hcode => ?impossible, exec_sliceIdle hrun, fun hcode => ?idleWrites⟩
  case goesOn =>
    exact exec_cRedraw_closed hrun (Bool.eq_false_iff.mpr (hclosed ∘ (redrawEligible_iff s).mp))
  case declined =>
    rw [exec_cRedraw_open hrun ((redrawEligible_iff s).mpr hopen), hgo]
    rfl
  case taken =>
    rw [exec_cRedraw_open hrun ((redrawEligible_iff s).mpr hopen), if_pos htake,
      exec_bpdSlice ((congrArg Consumer.halt (choose_c s)).trans hrun)]
  case idle =>
    rw [exec_bpdSlice hrun, sliceBody_idle hcode, exec_sliceIdle hrun]
    rfl
  case clear => rw [exec_bpdSlice hrun, sliceBody_clear hcode, exec_sliceClear hrun]
  case particles => rw [exec_bpdSlice hrun, sliceBody_particles hcode, exec_sliceParticles hrun]
  case impossible =>
    rw [exec_bpdSlice hrun, sliceBody_impossible hcode]
    rfl
  case idleWrites =>
    rw [exec_bpdSlice hrun, sliceBody_idle hcode]
    rfl

/-! ### The frame boundary (43_bpd.md R198, 42_fsh.md R167) -/

section Flip

variable {s : State}

theorem sendConsumed_full (h : c2pFullSeen s = true) :
    sendConsumed s = .raised (faultedConsumer 2 (s.c.frameCount.extractLsb' 0 24) s) := by
  rw [sendConsumed, if_pos h]
  rfl

theorem flipBody_empty (h : c2pFullSeen s = false) :
    flipBody s = .ok { s with
      c.front := !s.c.front, c.frameCount := s.c.frameCount + 1, c.c2pData := 2, c.c2pReq := !s.c.c2pReq
      c.flipPending := false } := by
  rw [flipBody, sendConsumed_empty]
  · rfl
  · exact h

theorem flipBody_full (h : c2pFullSeen s = true) :
    flipBody s = .raised (faultedConsumer 2 ((s.c.frameCount + 1).extractLsb' 0 24) { s with
      c.front := !s.c.front, c.frameCount := s.c.frameCount + 1 }) := by
  rw [flipBody, sendConsumed_full]
  · rfl
  · exact h

theorem exec_cFlip (hrun : s.c.halt = false) :
    exec .cFlip s = (if s.c.flipPending then flipBody s else .ok s).outcome
      (fun t => toPhase 1 { t with c.row := 0, c.bit := bitLo t }) := by
  rw [exec, execCFlip, consumerStep_running hrun]

theorem exec_fshSendcons (hrun : s.c.halt = false) : exec .fshSendcons s = (sendConsumed s).outcome id := by
  rw [exec, execFshSendcons, consumerStep_running hrun]

end Flip

/-- Settles O38, by whether a flip is pending and whether the slot is seen full. -/
theorem flipSwapsCountsAndSends : Obligations.FlipSwapsCountsAndSends := by
  intro s hrun
  refine ⟨fun hnone => ?restart, fun hflip hempty => ?flip, fun hflip hfull => ?desync, fun hempty => ?send,
    fun hfull => ?sendDesync⟩
  case restart =>
    rw [exec_cFlip hrun, hnone]
    rfl
  case flip =>
    rw [exec_cFlip hrun, if_pos hflip, flipBody_empty hempty]
    rfl
  case desync =>
    rw [exec_cFlip hrun, if_pos hflip, flipBody_full hfull]
    rfl
  case send =>
    rw [exec_fshSendcons hrun, sendConsumed_empty hempty]
    rfl
  case sendDesync =>
    rw [exec_fshSendcons hrun, sendConsumed_full hfull]
    rfl

/-! ## The helper agents (43_bpd.md R199 to R202) -/

section Agents

variable {s : State} {rest : List Action}

theorem step_agentDma (h : s.env.sched = .agentDma :: rest) : step s = dmaStep { s with env.sched := rest } :=
  step_of_done (fetch_cons h)

theorem step_agentSh (h : s.env.sched = .agentSh :: rest) : step s = shStep { s with env.sched := rest } :=
  step_of_done (fetch_cons h)

theorem step_agentRs (h : s.env.sched = .agentRs :: rest) : step s = .next (rsStep { s with env.sched := rest }) :=
  step_of_done (fetch_cons h)

theorem dmaStep_idle (hidle : s.c.dmaBusy = false) : dmaStep s = .next s := by
  simp [dmaStep, hidle]

theorem sub_one_ne_zero_iff {w : Nat} (x : BitVec w) : x - 1 ≠ 0 ↔ x ≠ 1 := by
  rw [ne_eq, ne_eq, sub_eq_zero]

theorem dmaStep_busy (hrun : s.c.halt = false) (hbusy : s.c.dmaBusy = true) (hword : s.c.dmaIdx.toNat < fbWords s) :
    dmaStep s = .next { s with
      c.shFifo := s.c.shFifo ++ [fbRead s s.c.front s.c.dmaIdx.toNat]
      c.dmaIdx := s.c.dmaIdx + 1, c.dmaRem := s.c.dmaRem - 1, c.dmaBusy := decide (s.c.dmaRem ≠ 1) } := by
  simp only [dmaStep, hrun, hbusy, hword, sub_one_ne_zero_iff]
  rfl

theorem shStep_empty (hempty : s.c.shFifo = []) : shStep s = .next s := by
  simp [shStep, hempty]

theorem shStep_word {w : Word} {tail : List Word} (hrun : s.c.halt = false) (hfifo : s.c.shFifo = w :: tail) :
    shStep s = shiftWord w { s with c.shFifo := tail } := by
  simp [shStep, hrun, hfifo]

theorem shiftWord_dummy (w : Word) (hdummy : rowWords s ≤ s.c.shCount.toNat) :
    shiftWord w s = .next { s with c.shCount := s.c.shCount + 1 } := by
  rw [shiftWord, if_pos hdummy]

theorem shiftWord_upper (w : Word) (hrow : s.c.shCount.toNat < rowWords s) (heven : s.c.shCount.toNat % 2 = 0) :
    shiftWord w s = .next { s with c.shHold := some w, c.shCount := s.c.shCount + 1 } := by
  rw [shiftWord, if_neg (Nat.not_le.mpr hrow), if_pos heven]

theorem shiftWord_lower (w : Word) {u : Word} (hrow : s.c.shCount.toNat < rowWords s)
    (hodd : s.c.shCount.toNat % 2 = 1) (hheld : s.c.shHold = some u) :
    shiftWord w s = .next { s with
      c.shLine := s.c.shLine ++ [column u w s.c.shBit], c.shHold := none, c.shCount := s.c.shCount + 1 } := by
  rw [shiftWord, if_neg (Nat.not_le.mpr hrow), if_neg (by omega), hheld]

/-- After a turn of `RS` no pulse runs, whether one ran or not. -/
theorem rsStep_running (hrun : s.c.halt = false) : rsStep s = { s with c.rsBusy := false } := by
  cases hbusy : s.c.rsBusy
  · rw [rsStep, if_pos (by simp [hbusy]), ← hbusy]
  · rw [rsStep, if_neg (by simp [hrun, hbusy])]

/-- The bits of a column, from bit 0 up: each is one part of the concatenation, found from the right. -/
theorem column_getLsbD (u l : Word) (b : BitVec 3) :
    (column u l b).getLsbD 0 = u.getLsbD b.toNat ∧ (column u l b).getLsbD 1 = u.getLsbD (8 + b.toNat) ∧
    (column u l b).getLsbD 2 = u.getLsbD (16 + b.toNat) ∧ (column u l b).getLsbD 3 = l.getLsbD b.toNat ∧
    (column u l b).getLsbD 4 = l.getLsbD (8 + b.toNat) ∧ (column u l b).getLsbD 5 = l.getLsbD (16 + b.toNat) := by
  simp only [column, BitVec.getLsbD_append, Nat.reduceSub, Nat.reduceLT, if_true, if_false, BitVec.getLsbD_ofBool,
    decide_true, Bool.true_and, and_self]

end Agents

/-- Settles O42, by agent and by what it finds to do. -/
theorem helperAgentsStep : Obligations.HelperAgentsStep := by
  refine ⟨fun s rest hrun hs => ?dma, fun s rest hrun hs => ?sh, fun s rest hrun hs => ?rs, column_getLsbD⟩
  case dma =>
    rw [step_agentDma hs]
    exact ⟨fun hidle => dmaStep_idle hidle, fun hbusy hword => dmaStep_busy hrun hbusy hword⟩
  case sh =>
    rw [step_agentSh hs]
    refine ⟨fun hempty => shStep_empty hempty, fun w tail hfifo => ?_⟩
    rw [shStep_word (s := { s with env.sched := rest }) hrun hfifo]
    exact ⟨fun hdummy => shiftWord_dummy w hdummy, fun hrow heven => shiftWord_upper w hrow heven,
      fun u hrow hodd hheld => shiftWord_lower w hrow hodd hheld⟩
  case rs => rw [step_agentRs hs, rsStep_running (s := { s with env.sched := rest }) hrun]

/-! ## The address of a pixel (43_bpd.md R180)

A scan row holds the upper pixels of its columns at the even words and the lower ones at the odd words. -/

section Address

variable {s : State}

/-- The scan row of an address is the pixel's row modulo `SCAN`, the word within it tells the column and the half. -/
theorem pixaddr_div_mod {x y : Nat} (hx : x < s.geom.size) :
    pixaddr s x y / rowWords s = (if y < scan s then y else y - scan s) ∧
    pixaddr s x y % rowWords s = (if y < scan s then 2 * x else 2 * x + 1) := by
  have hword : 2 * x + 1 < rowWords s := by
    unfold rowWords
    omega
  rw [pixaddr_eq_row]
  split <;> rw [Nat.div_mod_unique (by omega)] <;> exact ⟨by ring, by omega⟩

theorem pixaddr_injective {x y x' y' : Nat} (hx : x < s.geom.size) (hx' : x' < s.geom.size)
    (heq : pixaddr s x y = pixaddr s x' y') : x = x' ∧ y = y' := by
  obtain ⟨hrow, hword⟩ := pixaddr_div_mod (y := y) hx
  obtain ⟨hrow', hword'⟩ := pixaddr_div_mod (y := y') hx'
  have hrows := hrow.symm.trans (heq ▸ hrow')
  have hwords := hword.symm.trans (heq ▸ hword')
  split_ifs at hrows hwords <;> omega

theorem pixaddr_surjective (hwf : s.geom.wf = true) {k : Nat} (hk : k < fbWords s) :
    ∃ x y, x < s.geom.size ∧ y < s.geom.size ∧ pixaddr s x y = k := by
  have hsize := size_eq_two_scan hwf
  obtain ⟨r, j, hr, hj, rfl⟩ : ∃ r j, r < scan s ∧ j < 2 * s.geom.size ∧ r * rowWords s + j = k :=
    ⟨k / rowWords s, k % rowWords s, Nat.div_lt_of_lt_mul (by rwa [Nat.mul_comm, ← fbWords_eq_rows hwf]),
      Nat.mod_lt k (rowWords_bounds hwf).1, Nat.div_add_mod' k (rowWords s)⟩
  obtain heven | hodd := Nat.mod_two_eq_zero_or_one j
  · refine ⟨j / 2, r, by omega, by omega, ?_⟩
    rw [pixaddr_eq_row, if_pos hr]
    omega
  · refine ⟨j / 2, r + scan s, by omega, by omega, ?_⟩
    rw [pixaddr_eq_row, if_neg (by omega), Nat.add_sub_cancel]
    omega

end Address

/-- Settles O57: the address is one to one, onto and in range. -/
theorem pixelAddressIsABijection : Obligations.PixelAddressIsABijection := by
  refine fun s hwf => ⟨fun x y => pixaddr_lt_fbWords hwf, fun k hk => ?_⟩
  obtain ⟨x, y, hx, hy, hxy⟩ := pixaddr_surjective hwf hk
  exact ⟨x, y, hx, hy, hxy, fun x' y' hx' _ hxy' => pixaddr_injective hx' hx (hxy'.trans hxy.symm)⟩

/-! ## What a redraw slice writes (43_bpd.md R192, R193) -/

/-- Between `s` and `t` only the back buffer was drawn on, and free answers were taken. -/
def Redrew (s t : State) : Prop :=
  ∃ (fb0 fb1 : Store Word) (oracle : List Nat) (fresh : Nat), t = { s with
    c.fb0 := if s.c.front then fb0 else s.c.fb0, c.fb1 := if s.c.front then s.c.fb1 else fb1
    env.oracle := oracle, env.fresh := fresh }

section Redrew

variable {s t u : State}

theorem Redrew.refl (s : State) : Redrew s s := by
  refine ⟨s.c.fb0, s.c.fb1, s.env.oracle, s.env.fresh, ?_⟩
  rw [ite_self, ite_self]

theorem Redrew.trans (h : Redrew s t) (h' : Redrew t u) : Redrew s u := by
  obtain ⟨fb0, fb1, _, _, rfl⟩ := h
  obtain ⟨fb0', fb1', oracle, fresh, rfl⟩ := h'
  refine ⟨fb0', fb1', oracle, fresh, ?_⟩
  cases s.c.front <;> rfl

theorem Drew.redrew (h : Drew s t) : Redrew s t := by
  obtain ⟨oracle, fresh, rfl⟩ := h
  refine ⟨s.c.fb0, s.c.fb1, oracle, fresh, ?_⟩
  rw [ite_self, ite_self]

theorem redrew_fbWrite (k : Nat) (v : Word) (s : State) : Redrew s (fbWrite (!s.c.front) k v s) := by
  refine ⟨(fbWrite (!s.c.front) k v s).c.fb0, (fbWrite (!s.c.front) k v s).c.fb1, s.env.oracle, s.env.fresh, ?_⟩
  cases hfront : s.c.front <;> simp [fbWrite]

/-! What the drawing reads is not what it writes. -/

theorem Redrew.front (h : Redrew s t) : t.c.front = s.c.front := by
  obtain ⟨_, _, _, _, rfl⟩ := h
  rfl

theorem Redrew.pixaddr (h : Redrew s t) (x y : Nat) : pixaddr t x y = pixaddr s x y := by
  obtain ⟨_, _, _, _, rfl⟩ := h
  rfl

theorem Redrew.knownPixel (h : Redrew s t) (x y : Nat) : knownPixel t x y = knownPixel s x y := by
  obtain ⟨_, _, _, _, rfl⟩ := h
  rfl

theorem Redrew.geom (h : Redrew s t) : t.geom = s.geom := by
  obtain ⟨_, _, _, _, rfl⟩ := h
  rfl

theorem Redrew.p (h : Redrew s t) : t.p = s.p := by
  obtain ⟨_, _, _, _, rfl⟩ := h
  rfl

theorem drew_bgRead (x y : Nat) (s : State) : Drew s (bgRead x y s).2 := by
  unfold bgRead
  split
  · exact ⟨_, _, rfl⟩
  · exact drew_popNat s

theorem Drew.fbRead (h : Drew s t) (b : Bool) (k : Nat) : fbRead t b k = fbRead s b k := by
  obtain ⟨_, _, rfl⟩ := h
  rfl

theorem bgRead_known {x y : Nat} {v : Word} (h : knownPixel s x y = some v) : bgRead x y s = (v, s) := by
  unfold bgRead
  rw [show Store.find (32 * y + x) s.env.background = some v from h]

end Redrew

/-! ### The CLEAR slice (43_bpd.md R192) -/

/-- The first `n` pixels of row `y` have been redrawn in the back buffer, those that the background is known to answer
with its answer, and nothing else. -/
structure RowCleared (y n : Nat) (s t : State) : Prop where
  frame : Redrew s t
  known : ∀ x v, x < n → knownPixel s x y = some v → fbRead t (!s.c.front) (pixaddr s x y) = v
  others : ∀ k, (∀ x, x < n → k ≠ pixaddr s x y) → fbRead t (!s.c.front) k = fbRead s (!s.c.front) k

section Clear

variable {s t : State} {y n : Nat}

theorem redrew_clearPixel (y x : Nat) (t : State) : Redrew t (clearPixel y x t) :=
  (drew_bgRead x y t).redrew.trans (redrew_fbWrite _ _ _)

theorem fbRead_clearPixel (y x k : Nat) (t : State) :
    fbRead (clearPixel y x t) (!t.c.front) k =
      if k = pixaddr t x y then (bgRead x y t).1 else fbRead t (!t.c.front) k := by
  have hread := drew_bgRead x y t
  rw [clearPixel, fbRead_fbWrite, hread.redrew.front, hread.redrew.pixaddr, hread.fbRead]
  simp only [true_and]

theorem RowCleared.clearPixel (h : RowCleared y n s t) (hn : n < s.geom.size) :
    RowCleared y (n + 1) s (clearPixel y n t) := by
  have hpixel := fun k => h.frame.front ▸ h.frame.pixaddr n y ▸ fbRead_clearPixel y n k t
  refine ⟨h.frame.trans (redrew_clearPixel y n t), fun x v hx hv => ?known, fun k hk => ?others⟩
  case known =>
    rw [hpixel]
    obtain hlt | rfl := Nat.lt_succ_iff_lt_or_eq.mp hx
    · rw [if_neg fun heq => by have := pixaddr_injective (by omega) hn heq; omega]
      exact h.known x v hlt hv
    · rw [if_pos rfl, bgRead_known ((h.frame.knownPixel x y).trans hv)]
  case others =>
    rw [hpixel, if_neg (hk n (by omega))]
    exact h.others k fun x hx => hk x (by omega)

theorem rowCleared_foldl (y : Nat) (s : State) : ∀ n, n ≤ s.geom.size →
    RowCleared y n s ((List.range n).foldl (fun t x => Machine.clearPixel y x t) s)
  | 0, _ => ⟨.refl s, fun _ _ hx => absurd hx (Nat.not_lt_zero _), fun _ _ => rfl⟩
  | n + 1, hn => by
    rw [List.range_succ, List.foldl_append]
    exact (rowCleared_foldl y s n (by omega)).clearPixel (by omega)

end Clear

/-- Settles O39: the row is cleared pixel by pixel (`rowCleared_foldl`), then the cursor is written. -/
theorem clearSliceRedrawsOneRow : Obligations.ClearSliceRedrawsOneRow := by
  intro s hrun _ hrow
  obtain ⟨hframe, hknown, hothers⟩ := rowCleared_foldl s.c.rowCursor.toNat s s.geom.size le_rfl
  rw [exec_sliceClear hrun, sliceClearBody, if_pos hrow]
  refine ⟨_, rfl, ?frame, hknown, hothers⟩
  case frame =>
    obtain ⟨fb0, fb1, oracle, fresh, ht⟩ := hframe
    rw [ht]
    cases s.c.front <;> rfl

/-! ### The PARTICLES slice (43_bpd.md R193, R194) -/

/-- The column of the pixel that entry `k` of the staging table is drawn on. -/
def stagedX (s : State) (k : Nat) : Nat := (stgRead s k).x.toNat / 256

/-- The row of the pixel that entry `k` of the staging table is drawn on. -/
def stagedY (s : State) (k : Nat) : Nat := (stgRead s k).y.toNat / 256

/-- Entry `k` of the staging table is inside the matrix. -/
def StagedInside (s : State) (k : Nat) : Prop := stagedX s k < s.geom.size ∧ stagedY s k < s.geom.size

/-- The word of the framebuffer that entry `k` of the staging table is drawn on. -/
def stagedAddr (s : State) (k : Nat) : Nat := pixaddr s (stagedX s k) (stagedY s k)

/-- The staged entries from `first` up to `last`, which is not among them, have been drawn in the back buffer in rising
order, and nothing else. -/
structure StagedDrawn (first last : Nat) (s t : State) : Prop where
  frame : Redrew s t
  env : t.env = s.env
  shown : ∀ k, first ≤ k → k < last →
    (∀ j, k < j → j < last → ¬(stagedX s j = stagedX s k ∧ stagedY s j = stagedY s k)) →
      fbRead t (!s.c.front) (stagedAddr s k) = (stgRead s k).color
  others : ∀ a, (∀ k, first ≤ k → k < last → a ≠ stagedAddr s k) →
    fbRead t (!s.c.front) a = fbRead s (!s.c.front) a

section Particles

variable {s t : State} {first last k : Nat}

theorem drawStaged_inside (hk : k < capacity) (hin : StagedInside s k) :
    drawStaged k s = .ok (fbWrite (!s.c.front) (stagedAddr s k) (stgRead s k).color s) := by
  rw [drawStaged, if_pos hk]
  exact if_neg (not_or.mpr ⟨Nat.not_le.mpr hin.1, Nat.not_le.mpr hin.2⟩)

theorem drawStaged_outside (hk : k < capacity) (hout : s.geom.size ≤ stagedX s k ∨ s.geom.size ≤ stagedY s k) :
    drawStaged k s =
      .raised (faultedConsumer 4 (BitVec.ofNat 12 (stagedY s k) ++ BitVec.ofNat 12 (stagedX s k)) s) := by
  rw [drawStaged, if_pos hk]
  exact if_pos hout

/-! Drawing reads the staging table, and does not write it. -/

theorem StagedDrawn.stgRead_eq (h : StagedDrawn first last s t) (k : Nat) : stgRead t k = stgRead s k := by
  rw [stgRead, stgRead, h.frame.p, h.env]

theorem StagedDrawn.stagedX_eq (h : StagedDrawn first last s t) (k : Nat) : stagedX t k = stagedX s k := by
  rw [stagedX, stagedX, h.stgRead_eq]

theorem StagedDrawn.stagedY_eq (h : StagedDrawn first last s t) (k : Nat) : stagedY t k = stagedY s k := by
  rw [stagedY, stagedY, h.stgRead_eq]

theorem StagedDrawn.stagedAddr_eq (h : StagedDrawn first last s t) (k : Nat) : stagedAddr t k = stagedAddr s k := by
  rw [stagedAddr, stagedAddr, h.stagedX_eq, h.stagedY_eq, h.frame.pixaddr]

theorem StagedDrawn.inside (h : StagedDrawn first last s t) (hin : StagedInside s k) : StagedInside t k := by
  rwa [StagedInside, h.stagedX_eq, h.stagedY_eq, h.frame.geom]

theorem StagedDrawn.exists_buffers (h : StagedDrawn first last s t) : ∃ fb0 fb1 : Store Word, t = { s with
    c.fb0 := if s.c.front then fb0 else s.c.fb0, c.fb1 := if s.c.front then s.c.fb1 else fb1 } := by
  obtain ⟨⟨fb0, fb1, oracle, fresh, rfl⟩, henv, -, -⟩ := h
  exact ⟨fb0, fb1, congrArg (State.mk _ _ _) henv⟩

theorem StagedDrawn.refl (first : Nat) (s : State) : StagedDrawn first first s s :=
  ⟨.refl s, rfl, fun _ hle hlt => absurd hle (Nat.not_le.mpr hlt), fun _ _ => rfl⟩

/-- One more entry is drawn: it shows on its pixel, over what was drawn there. -/
theorem StagedDrawn.draw (h : StagedDrawn first last s t) (hin : ∀ k, first ≤ k → k ≤ last → StagedInside s k)
    (hfirst : first ≤ last) :
    StagedDrawn first (last + 1) s (fbWrite (!t.c.front) (stagedAddr t last) (stgRead t last).color t) := by
  have hread : ∀ a, fbRead (fbWrite (!t.c.front) (stagedAddr t last) (stgRead t last).color t) (!s.c.front) a =
      if a = stagedAddr s last then (stgRead s last).color else fbRead t (!s.c.front) a := fun a => by
    rw [fbRead_fbWrite, h.frame.front, h.stagedAddr_eq, h.stgRead_eq]
    simp only [true_and]
  refine ⟨h.frame.trans (redrew_fbWrite _ _ t), (fbWrite_env _ _ _ t).trans h.env, fun k hk hlt hlast => ?shown,
    fun a ha => ?others⟩
  case shown =>
    rw [hread]
    obtain hlt | rfl := Nat.lt_succ_iff_lt_or_eq.mp hlt
    · have hcell := hlast last hlt (Nat.lt_succ_self last)
      have hne : stagedAddr s k ≠ stagedAddr s last := fun heq =>
        hcell (pixaddr_injective (hin last hfirst le_rfl).1 (hin k hk (Nat.le_of_lt hlt)).1 heq.symm)
      rw [if_neg hne]
      exact h.shown k hk hlt fun j hj hjlt => hlast j hj (by omega)
    · rw [if_pos rfl]
  case others =>
    rw [hread, if_neg (ha last hfirst (Nat.lt_succ_self last))]
    exact h.others a fun k hk hlt => ha k hk (by omega)

/-- Staged entries inside the matrix are all drawn. -/
theorem runEach_drawStaged_inside (first : Nat) (s : State) : ∀ n, first + n ≤ capacity →
    (∀ k, first ≤ k → k < first + n → StagedInside s k) →
      ∃ t, runEach drawStaged ((List.range n).map (fun j => first + j)) s = .ok t ∧ StagedDrawn first (first + n) s t
  | 0, _, _ => ⟨s, rfl, .refl first s⟩
  | n + 1, hcap, hin => by
    obtain ⟨t, hrun, ht⟩ := runEach_drawStaged_inside first s n (by omega) fun k hk hlt => hin k hk (by omega)
    have hdraw := drawStaged_inside (k := first + n) hcap (ht.inside (hin (first + n) (by omega) (by omega)))
    refine ⟨_, ?_, ht.draw (fun k hk hle => hin k hk (by omega)) (by omega)⟩
    rw [List.range_succ, List.map_append, runEach_append, hrun]
    simp only [List.map_cons, List.map_nil, Result.andThen_ok, runEach_cons, hdraw, runEach_nil]

/-- The first entry outside the matrix stops the drawing, with the entries before it drawn (60_exceptions.md R225,
R235). -/
theorem runEach_drawStaged_outside {first n m : Nat} {s : State} (hcap : first + n ≤ capacity) (hm : m < n)
    (hin : ∀ k, first ≤ k → k < first + m → StagedInside s k)
    (hout : s.geom.size ≤ stagedX s (first + m) ∨ s.geom.size ≤ stagedY s (first + m)) :
    ∃ t, StagedDrawn first (first + m) s t ∧
      runEach drawStaged ((List.range n).map (fun j => first + j)) s =
        .raised (faultedConsumer 4
          (BitVec.ofNat 12 (stagedY s (first + m)) ++ BitVec.ofNat 12 (stagedX s (first + m))) t) := by
  obtain ⟨t, hrun, ht⟩ := runEach_drawStaged_inside first s m (by omega) hin
  have hdraw := drawStaged_outside (s := t) (k := first + m) (by omega)
    (by rwa [ht.stagedX_eq, ht.stagedY_eq, ht.frame.geom])
  obtain ⟨r, rfl⟩ : ∃ r, n = m + (r + 1) := ⟨n - m - 1, by omega⟩
  refine ⟨t, ht, ?_⟩
  rw [List.range_add, List.range_succ_eq_map, List.map_append, runEach_append, hrun]
  simp only [List.map_cons, Result.andThen_ok, runEach_cons, Nat.add_zero, hdraw, Result.andThen_raised, ht.stagedX_eq,
    ht.stagedY_eq]

/-- The number of entries that the slice draws: the smaller of `PARTICLE_CHUNK` and what is left. -/
def chunkCount (s : State) : Nat :=
  min ((s.c.cfg.extractLsb' 16 10).toNat + 1) (s.p.stgCount.toNat - s.c.partCursor.toNat)

theorem chunkLength_eq (hcursor : s.c.partCursor.toNat ≤ s.p.stgCount.toNat) :
    chunkLength s = (chunkCount s : Int) := by
  simp only [chunkLength, chunkCount, cfgChunk, cfgChunkM1]
  omega

/-- What is written once the chunk is drawn: the cursor, and at the end of the table the completion of the redraw. -/
def chunkDone (s t : State) : State :=
  if s.c.partCursor.toNat + chunkCount s = t.p.stgCount.toNat then
    redrawComplete { t with c.partCursor := BitVec.ofNat 10 (s.c.partCursor.toNat + chunkCount s) }
  else { t with c.partCursor := BitVec.ofNat 10 (s.c.partCursor.toNat + chunkCount s) }

theorem exec_sliceParticles_chunk (hrun : s.c.halt = false) (hcursor : s.c.partCursor.toNat ≤ s.p.stgCount.toNat) :
    exec .sliceParticles s =
      ((runEach drawStaged ((List.range (chunkCount s)).map (fun j => s.c.partCursor.toNat + j)) s).andThen
        fun t => .ok (chunkDone s t)).outcome id := by
  rw [exec_sliceParticles hrun, sliceParticlesBody, chunkLength_eq hcursor]
  rfl

theorem fbRead_chunkDone (s t : State) (b : Bool) (a : Nat) : fbRead (chunkDone s t) b a = fbRead t b a := by
  unfold chunkDone
  split <;> rfl

end Particles

/-- Settles O40: the chunk is drawn entry by entry (`runEach_drawStaged_inside`), up to the first entry outside
(`runEach_drawStaged_outside`). -/
theorem particlesSliceDrawsOneChunk : Obligations.ParticlesSliceDrawsOneChunk := by
  intro s hrun _ hstaged hcursor c0 n px py
  have hn : n = chunkCount s := rfl
  have hcap : c0 + n ≤ capacity := by
    unfold capacity
    omega
  refine ⟨fun hin => ?complete, fun m hfirst hlast hin hout => ?fault⟩
  case complete =>
    obtain ⟨t, hdraw, ht⟩ := runEach_drawStaged_inside c0 s n hcap hin
    refine ⟨chunkDone s t, ?_, ?frame, ?_, ?_⟩
    · rw [exec_sliceParticles_chunk hrun hcursor, ← hn, hdraw]
      rfl
    case frame =>
      obtain ⟨fb0, fb1, hbuffers⟩ := ht.exists_buffers
      rw [chunkDone, ht.frame.p, ← hn, hbuffers]
      split_ifs <;> rfl
    · exact fun k hk hlt hlast => (fbRead_chunkDone s t _ _).trans (ht.shown k hk hlt hlast)
    · exact fun a ha => (fbRead_chunkDone s t _ _).trans (ht.others a ha)
  case fault =>
    obtain ⟨j, rfl⟩ := Nat.exists_eq_add_of_le hfirst
    obtain ⟨t, ht, hraise⟩ := runEach_drawStaged_outside hcap (by omega) hin hout
    refine ⟨faultedConsumer 4 (BitVec.ofNat 12 (py (c0 + j)) ++ BitVec.ofNat 12 (px (c0 + j))) t, ?_, ?frame, ht.shown,
      ht.others⟩
    · rw [exec_sliceParticles_chunk hrun hcursor, ← hn, hraise]
      rfl
    case frame =>
      obtain ⟨fb0, fb1, hbuffers⟩ := ht.exists_buffers
      rw [hbuffers]
      cases s.c.front <;> rfl

/-! ## One slot of the display (43_bpd.md R182, R199 to R203)

The state after each part of the slot is a function of the state at its start: `C` up to its poll (`slotStarted`), `n`
words moved by `DMA` (`slotMoved`), the dummy words pushed (`slotQueued`), `n` words consumed by `SH` (`slotShifted`), the
line latched (`slotLatched`). -/

/-- The acts to come are the listed ones. -/
def withSched (acts : List Action) (s : State) : State := { s with env.sched := acts }

section Runs

variable {s t : State} {acts : List Action}

/-- Turns of one agent that lead along a sequence of states lead from the first of them to the last. -/
theorem run_turns {a : Action} (m : Nat) (acts : List Action) : ∀ (n : Nat) (f : Nat → State),
    (∀ k, k < n → ∀ acts, step (withSched (a :: acts) (f k)) = .next (withSched acts (f (k + 1)))) →
      Host.Core.run Sys2Proof.core (n + m) (withSched (List.replicate n a ++ acts) (f 0)) =
        Host.Core.run Sys2Proof.core m (withSched acts (f n))
  | 0, _, _ => by
    rw [Nat.zero_add]
    rfl
  | n + 1, f, hturn => by
    rw [Nat.add_right_comm]
    exact (run_succ_of_next (n + m) (hturn 0 (Nat.succ_pos n) _)).trans
      (run_turns m acts n (fun k => f (k + 1)) fun k hk => hturn (k + 1) (Nat.succ_lt_succ hk))

/-- A turn of agent `C` at the head of the list. -/
theorem run_agentC {i : Instr} (m : Nat) (hi : decodeConsumer s.c.cphase = i)
    (ht : exec i (withSched acts s) = .next (withSched acts t)) :
    Host.Core.run Sys2Proof.core (m + 1) (withSched (.agentC :: acts) s) =
      Host.Core.run Sys2Proof.core m (withSched acts t) := by
  subst hi
  exact run_succ_of_next m ht

end Runs

/-- Word `j` of the scan row of the slot. -/
def rowWord (s : State) (j : Nat) : Word := fbRead s s.c.front (s.c.row.toNat * rowWords s + j)

/-- The slot is configured (R184). -/
def slotConfigured (s : State) : State := { s with c.shBit := s.c.bit, c.shCount := 0, c.cphase := 2 }

/-- The transfer of the row is started (R185) and the slot is past its poll. -/
def slotStarted (s : State) : State := { slotConfigured s with
  c.dmaIdx := BitVec.ofNat 11 (s.c.row.toNat * rowWords s), c.dmaRem := BitVec.ofNat 7 (rowWords s), c.dmaBusy := true
  c.cphase := 4 }

/-- The first `n` words of the row are in the queue. -/
def slotMoved (s : State) (n : Nat) : State := { slotStarted s with
  c.shFifo := (List.range n).map (rowWord s)
  c.dmaIdx := BitVec.ofNat 11 (s.c.row.toNat * rowWords s + n), c.dmaRem := BitVec.ofNat 7 (rowWords s - n)
  c.dmaBusy := decide (n ≠ rowWords s) }

/-- What `SH` consumes in the slot: the words of the row, and the two dummy words. -/
def slotWords (s : State) : List Word := (List.range (rowWords s)).map (rowWord s) ++ [0, 0]

/-- The whole row and the dummy words are in the queue, and the slot waits for its strobe. -/
def slotQueued (s : State) : State := { slotMoved s (rowWords s) with c.shFifo := slotWords s, c.cphase := 7 }

/-- The upper pixel that is held after `n` words: the last of them, if its lower pixel is still to come. -/
def slotHeld (s : State) (n : Nat) : Option Word :=
  if n < rowWords s ∧ n % 2 = 1 then some (rowWord s (n - 1)) else none

/-- The columns that are made after `n` words: one for each pair of the row's. -/
def slotLine (s : State) (n : Nat) : List (BitVec 6) :=
  (List.range (min (n / 2) s.geom.size)).map fun x =>
    column (rowWord s (2 * x)) (rowWord s (2 * x + 1)) s.c.bit

/-- The first `n` words are consumed. -/
def slotShifted (s : State) (n : Nat) : State := { slotQueued s with
  c.shFifo := (slotWords s).drop n, c.shHold := slotHeld s n, c.shLine := slotLine s n
  c.shCount := BitVec.ofNat 7 n }

/-- The line is latched and its pulse runs. -/
def slotLatched (s : State) : State := { slotShifted s (rowWords s + 2) with
  c.shLine := [], c.rsRow := s.c.row, c.rsBit := s.c.bit, c.rsWidth := pulseWidth s, c.rsBusy := true
  c.trace := s.c.trace ++ [Event.rowOut s.c.row s.c.bit (frontLine s s.c.row.toNat s.c.bit) (pulseWidth s)]
  c.cphase := 9 }

section Slot

variable {s : State} {n : Nat}

theorem run_slotStarted (hrun : s.c.halt = false) (hphase : s.c.cphase = 1) (hpoll : p2cAvail s = false) (m : Nat)
    (acts : List Action) :
    Host.Core.run Sys2Proof.core (m + 3) (withSched ([.agentC, .agentC, .agentC] ++ acts) s) =
      Host.Core.run Sys2Proof.core m (withSched acts (slotStarted s)) := by
  have hsetbit := run_agentC (acts := .agentC :: .agentC :: acts) (t := slotConfigured s) (i := .cSetbit) (m + 2)
    (congrArg decodeConsumer hphase) (exec_cSetbit hrun)
  have hstart := run_agentC (acts := .agentC :: acts) (s := slotConfigured s)
    (t := { slotStarted s with c.cphase := 3 }) (m + 1) rfl (exec_cDmastart hrun)
  have hpolled := run_agentC (acts := acts) (s := { slotStarted s with c.cphase := 3 }) (t := slotStarted s) m rfl
    (exec_cPoll_nothing hrun hpoll)
  exact hsetbit.trans (hstart.trans hpolled)

/-! ### The transfer (R199) -/

theorem slotMoved_zero (hwf : s.geom.wf = true) (hfifo : s.c.shFifo = []) : slotMoved s 0 = slotStarted s := by
  rw [slotMoved, decide_eq_true (rowWords_bounds hwf).1.ne, List.range_zero, List.map_nil, ← hfifo]
  rfl

theorem step_slotMoved (h : Inv s) (hrun : s.c.halt = false) (hn : n < rowWords s) (acts : List Action) :
    step (withSched (.agentDma :: acts) (slotMoved s n)) = .next (withSched acts (slotMoved s (n + 1))) := by
  have hend := row_end_le_fbWords h.geometry h.row
  have hwords := fbWords_le h.geometry
  have hrow := rowWords_bounds h.geometry
  have hidx : (BitVec.ofNat 11 (s.c.row.toNat * rowWords s + n)).toNat = s.c.row.toNat * rowWords s + n :=
    Nat.mod_eq_of_lt (by omega)
  have hword : (BitVec.ofNat 11 (s.c.row.toNat * rowWords s + n)).toNat < fbWords s := by omega
  have hbusy : decide (n ≠ rowWords s) = true := decide_eq_true hn.ne
  have hfifo : (List.range (n + 1)).map (rowWord s) = (List.range n).map (rowWord s) ++
      [fbRead s s.c.front (BitVec.ofNat 11 (s.c.row.toNat * rowWords s + n)).toNat] := by
    rw [List.range_succ, List.map_append, hidx]
    rfl
  have hnext : BitVec.ofNat 11 (s.c.row.toNat * rowWords s + (n + 1)) =
      BitVec.ofNat 11 (s.c.row.toNat * rowWords s + n) + 1 := by
    rw [← Nat.add_assoc, BitVec.ofNat_add]
    rfl
  have hrem : BitVec.ofNat 7 (rowWords s - (n + 1)) = BitVec.ofNat 7 (rowWords s - n) - 1 := by
    bv_omega
  have hlast : decide (n + 1 ≠ rowWords s) = decide (BitVec.ofNat 7 (rowWords s - n) ≠ 1) := by
    rw [decide_eq_decide]
    bv_omega
  rw [slotMoved, slotMoved, hfifo, hnext, hrem, hlast]
  exact (step_agentDma rfl).trans (dmaStep_busy hrun hbusy hword)

/-- The transfer is over: `C` pushes the dummy words and, with no slice allowed, goes on to its wait for the strobe. -/
theorem run_slotQueued (hrun : s.c.halt = false) (hclosed : redrawEligible s = false) (m : Nat) (acts : List Action) :
    Host.Core.run Sys2Proof.core (m + 3) (withSched ([.agentC, .agentC, .agentC] ++ acts) (slotMoved s (rowWords s))) =
      Host.Core.run Sys2Proof.core m (withSched acts (slotQueued s)) := by
  have hidle : decide (rowWords s ≠ rowWords s) = false := decide_eq_false (not_not_intro rfl)
  have hwait := run_agentC (acts := .agentC :: .agentC :: acts) (s := slotMoved s (rowWords s))
    (t := toPhase 5 (slotMoved s (rowWords s))) (m + 2) rfl (exec_cWaitdma_idle hrun hidle)
  have hdummy := run_agentC (acts := .agentC :: acts) (s := toPhase 5 (slotMoved s (rowWords s)))
    (t := { slotQueued s with c.cphase := 6 }) (m + 1) rfl (exec_cDummy2 hrun)
  have hredraw := run_agentC (acts := acts) (s := { slotQueued s with c.cphase := 6 }) (t := slotQueued s) m rfl
    (exec_cRedraw_closed hrun hclosed)
  exact hwait.trans (hdummy.trans hredraw)

/-! ### The shift-out (R200, R201) -/

theorem slotWords_drop (hn : n < rowWords s) :
    (slotWords s).drop n = rowWord s n :: (slotWords s).drop (n + 1) := by
  have hlength : n < (slotWords s).length := by
    simp only [slotWords, List.length_append, List.length_map, List.length_range]
    omega
  rw [List.drop_eq_getElem_cons hlength]
  congr 1
  simp [slotWords, hn]

theorem slotWords_drop_row (s : State) (j : Nat) : (slotWords s).drop (rowWords s + j) = [0, 0].drop j := by
  have hlength : ((List.range (rowWords s)).map (rowWord s)).length = rowWords s := by
    rw [List.length_map, List.length_range]
  rw [slotWords, ← List.drop_drop, List.drop_left' hlength]

theorem slotWords_drop_dummy (hrow : rowWords s ≤ n) (hn : n < rowWords s + 2) :
    (slotWords s).drop n = 0 :: (slotWords s).drop (n + 1) := by
  obtain rfl | rfl : n = rowWords s ∨ n = rowWords s + 1 := by omega
  · exact (slotWords_drop_row s 0).trans (congrArg (List.cons 0) (slotWords_drop_row s 1).symm)
  · exact (slotWords_drop_row s 1).trans (congrArg (List.cons 0) (slotWords_drop_row s 2).symm)

theorem slotHeld_of_odd (hn : n < rowWords s) (hodd : n % 2 = 1) : slotHeld s n = some (rowWord s (n - 1)) :=
  if_pos ⟨hn, hodd⟩

theorem slotHeld_of_even (heven : n % 2 = 0) : slotHeld s n = none := if_neg (by omega)

theorem slotHeld_of_row (hrow : rowWords s ≤ n) : slotHeld s n = none := if_neg (by omega)

theorem slotLine_upper (heven : n % 2 = 0) : slotLine s (n + 1) = slotLine s n := by
  rw [slotLine, slotLine, show (n + 1) / 2 = n / 2 by omega]

theorem slotLine_lower (hn : n < rowWords s) (hodd : n % 2 = 1) :
    slotLine s (n + 1) = slotLine s n ++ [column (rowWord s (n - 1)) (rowWord s n) s.c.bit] := by
  have hpair : 2 * (n / 2) = n - 1 ∧ 2 * (n / 2) + 1 = n := by omega
  have hsize : min ((n + 1) / 2) s.geom.size = n / 2 + 1 ∧ min (n / 2) s.geom.size = n / 2 := by
    unfold rowWords at hn
    omega
  rw [slotLine, slotLine, hsize.1, hsize.2, List.range_succ, List.map_append, List.map_singleton, hpair.2, hpair.1]

/-- With the whole row consumed the line is the one the slot is to show. -/
theorem slotLine_row (hrow : rowWords s ≤ n) : slotLine s n = frontLine s s.c.row.toNat s.c.bit := by
  have hsize : min (n / 2) s.geom.size = s.geom.size := by
    unfold rowWords at hrow
    omega
  rw [slotLine, hsize]
  rfl

theorem slotShifted_zero (hline : s.c.shLine = []) (hhold : s.c.shHold = none) : slotShifted s 0 = slotQueued s := by
  rw [slotShifted, slotHeld_of_even rfl, ← hhold, show slotLine s 0 = s.c.shLine from hline.symm]
  rfl

theorem step_slotShifted (hwf : s.geom.wf = true) (hrun : s.c.halt = false) (hn : n < rowWords s + 2)
    (acts : List Action) :
    step (withSched (.agentSh :: acts) (slotShifted s n)) = .next (withSched acts (slotShifted s (n + 1))) := by
  have hbounds := rowWords_bounds hwf
  have hcount : (BitVec.ofNat 7 n).toNat = n := Nat.mod_eq_of_lt (by omega)
  have hnext : BitVec.ofNat 7 (n + 1) = BitVec.ofNat 7 n + 1 := BitVec.ofNat_add n 1
  refine (step_agentSh rfl).trans ?_
  rw [slotShifted.eq_1 s (n + 1), hnext]
  obtain hrow | hrow := Nat.lt_or_ge n (rowWords s)
  · refine (shStep_word (s := withSched acts (slotShifted s n)) hrun (slotWords_drop hrow)).trans ?_
    obtain heven | hodd := Nat.mod_two_eq_zero_or_one n
    · rw [slotLine_upper heven, slotHeld_of_odd (by omega) (by omega)]
      exact shiftWord_upper _ (hcount.symm ▸ hrow) (hcount.symm ▸ heven)
    · rw [slotLine_lower hrow hodd, slotHeld_of_even (by omega)]
      exact shiftWord_lower _ (hcount.symm ▸ hrow) (hcount.symm ▸ hodd) (slotHeld_of_odd hrow hodd)
  · refine (shStep_word (s := withSched acts (slotShifted s n)) hrun (slotWords_drop_dummy hrow hn)).trans ?_
    rw [slotLine_row (n := n + 1) (by omega), ← slotLine_row hrow, slotHeld_of_row (by omega), ← slotHeld_of_row hrow]
    exact shiftWord_dummy _ (hcount.symm ▸ hrow)

/-! ### The latch (R195, R196) -/

theorem run_slotLatched (hwf : s.geom.wf = true) (hrun : s.c.halt = false) (m : Nat) (acts : List Action) :
    Host.Core.run Sys2Proof.core (m + 3)
        (withSched ([.agentRs, .agentC, .agentC] ++ acts) (slotShifted s (rowWords s + 2))) =
      Host.Core.run Sys2Proof.core m (withSched acts (slotLatched s)) := by
  have hbounds := rowWords_bounds hwf
  have hcount : (BitVec.ofNat 7 (rowWords s + 2)).toNat = rowWords s + 2 := Nat.mod_eq_of_lt (by omega)
  have hpulse := run_succ_of_next
    (s := withSched (.agentRs :: .agentC :: .agentC :: acts) (slotShifted s (rowWords s + 2))) (m + 2)
    ((step_agentRs rfl).trans (congrArg Host.Outcome.next (rsStep_running hrun)))
  have hwait := run_agentC (acts := .agentC :: acts)
    (s := { slotShifted s (rowWords s + 2) with c.rsBusy := false })
    (t := { slotShifted s (rowWords s + 2) with c.rsBusy := false, c.cphase := 8 }) (m + 1) rfl
    (exec_cWaitstrobe_ready hrun ⟨rfl, slotWords_drop_row s 2, hcount⟩)
  have hstrobe := run_agentC (acts := acts)
    (s := { slotShifted s (rowWords s + 2) with c.rsBusy := false, c.cphase := 8 }) (t := slotLatched s) m rfl
    (by
      rw [slotLatched, ← slotLine_row (n := rowWords s + 2) (by omega)]
      exact exec_cStrobe hrun)
  exact hpulse.trans (hwait.trans hstrobe)

end Slot

theorem withSched_of_eq {s : State} {acts : List Action} (h : s.env.sched = acts) : withSched acts s = s := by
  rw [← h]
  rfl

/-- Settles O60: the parts of the slot, one after the other. -/
theorem slotShowsTheFrontRow : Obligations.SlotShowsTheFrontRow := by
  intro s rest h hrun hphase hfifo hline hhold hpoll hclosed hsched
  have hslot := calc
    Host.Core.run Sys2Proof.core (2 * rowWords s + 11) s
      = Host.Core.run Sys2Proof.core (rowWords s + (rowWords s + 2 + (0 + 3) + 3) + 3)
          (withSched ([.agentC, .agentC, .agentC] ++ (List.replicate (rowWords s) .agentDma ++
            ([.agentC, .agentC, .agentC] ++ (List.replicate (rowWords s + 2) .agentSh ++
              ([.agentRs, .agentC, .agentC] ++ rest))))) s) := by
        rw [withSched_of_eq (by simp only [hsched, slotSchedule, List.append_assoc]),
          show 2 * rowWords s + 11 = rowWords s + (rowWords s + 2 + (0 + 3) + 3) + 3 by omega]
    _ = Host.Core.run Sys2Proof.core (rowWords s + (rowWords s + 2 + (0 + 3) + 3)) (withSched _ (slotMoved s 0)) := by
        rw [slotMoved_zero h.geometry hfifo]
        exact run_slotStarted hrun hphase hpoll _ _
    _ = Host.Core.run Sys2Proof.core (rowWords s + 2 + (0 + 3) + 3) (withSched _ (slotMoved s (rowWords s))) :=
        run_turns _ _ _ (slotMoved s) fun _ hn => step_slotMoved h hrun hn
    _ = Host.Core.run Sys2Proof.core (rowWords s + 2 + (0 + 3)) (withSched _ (slotShifted s 0)) := by
        rw [slotShifted_zero hline hhold]
        exact run_slotQueued hrun hclosed _ _
    _ = Host.Core.run Sys2Proof.core (0 + 3) (withSched _ (slotShifted s (rowWords s + 2))) :=
        run_turns _ _ _ (slotShifted s) fun _ hn => step_slotShifted h.geometry hrun hn
    _ = .next (withSched rest (slotLatched s)) := run_slotLatched h.geometry hrun 0 rest
  exact ⟨_, hslot, rfl, rfl, rfl, rfl, rfl, rfl, rfl, rfl, rfl, rfl, rfl, rfl⟩

end Sys2Proof.Machine

/-! Proofs of the family `60_exceptions.md`: the faults that are raised before a command executes (O4, O5, O11, O16),
and what can still change in a halted domain (O53). A host command stands in one frame, a turn of an agent in another
(`exec_frame`), so what an operation does in a busy or in a halted domain is read off its frame. -/

namespace Sys2Proof.Machine

open Sys2Proof.Config

/-! ## The frame that each operation stands in -/

section Frames

variable {s : State} {i : Instr}

/-- Every operation is a host command, a turn of agent `P`, or a turn of agent `C`. -/
theorem exec_frame (i : Instr) (s : State) :
    (isConsumerOp i = false ∧ ∃ opc body, hostOpcode i = some opc ∧ exec i s = command opc body s) ∨
    (isConsumerOp i = false ∧ hostOpcode i = none ∧ ∃ f, exec i s = producerStep f s) ∨
    (isConsumerOp i = true ∧ hostOpcode i = none ∧ ∃ f, exec i s = consumerStep f s) := by
  cases i with
  | nop | obmSet | obmClr | obmGet | obmClrall | ppeLdbg | ppeLdpart | ppeClrall | ppeIter | ppeSnap | ppeTick
  | fshSendrdy | fshWaitcons => exact .inl ⟨rfl, _, _, rfl, rfl⟩
  | pIdle | pScale | pSort | pAccel | pMove | pExec | pWait | pHalted | tokConsumed =>
    refine .inr (.inl ⟨rfl, rfl, ?_⟩)
    rw [exec]
    exact ⟨_, rfl⟩
  | cOff | cSetbit | cDmastart | cPoll | cWaitdma | cDummy2 | cRedraw | cWaitstrobe | cStrobe | cNext | cFlip
  | cHalted | sliceIdle | sliceClear | sliceParticles | fshPollrdy | fshSendcons | bpdSlice | tokReady =>
    refine .inr (.inr ⟨rfl, rfl, ?_⟩)
    rw [exec]
    exact ⟨_, rfl⟩

theorem command_halted (opc : BitVec 8) (body : State → Result) (h : s.p.halt = true) :
    command opc body s = .next s := by
  simp [command, h]

theorem command_busy (opc : BitVec 8) (body : State → Result) (hrun : s.p.halt = false) (hbusy : s.p.busy = true) :
    command opc body s = .next (raiseP fOverrun (opc.zeroExtend 24) s) := by
  simp [command, hrun, hbusy]

theorem producerStep_halted (f : State → Host.Outcome State Fault Refusal) (h : s.p.halt = true) :
    producerStep f s = .next s := by
  simp [producerStep, h]

theorem consumerStep_halted (f : State → Host.Outcome State Fault Refusal) (h : s.c.halt = true) :
    consumerStep f s = .next s := by
  simp [consumerStep, h]

theorem exec_command_busy {opc : BitVec 8} (hopc : hostOpcode i = some opc) (hrun : s.p.halt = false)
    (hbusy : s.p.busy = true) : exec i s = .next (raiseP fOverrun (opc.zeroExtend 24) s) := by
  obtain ⟨-, opc', body, hopc', e⟩ | ⟨-, hnone, -⟩ | ⟨-, hnone, -⟩ := exec_frame i s
  · obtain rfl : opc' = opc := Option.some.inj (hopc'.symm.trans hopc)
    rw [e, command_busy opc' body hrun hbusy]
  all_goals cases hnone.symm.trans hopc

/-- A halted producer domain executes nothing (R230). -/
theorem exec_producer_halted (hi : isConsumerOp i = false) (h : s.p.halt = true) : exec i s = .next s := by
  obtain ⟨-, opc, body, -, e⟩ | ⟨-, -, f, e⟩ | ⟨hconsumer, -⟩ := exec_frame i s
  · rw [e, command_halted opc body h]
  · rw [e, producerStep_halted f h]
  · cases hi.symm.trans hconsumer

/-- A halted consumer domain executes nothing (R230). -/
theorem exec_consumer_halted (hi : isConsumerOp i = true) (h : s.c.halt = true) : exec i s = .next s := by
  obtain ⟨hproducer, -⟩ | ⟨hproducer, -⟩ | ⟨-, -, f, e⟩ := exec_frame i s
  · cases hi.symm.trans hproducer
  · cases hi.symm.trans hproducer
  · rw [e, consumerStep_halted f h]

end Frames

/-! ## A write of `P_CMD` (30_encoding.md R97, R98) -/

section CommandWrites

variable {s : State} {w : Word}

theorem fetchCommand_error {r : Reject} (h : decodeCommand w = .error r) (s : State) :
    fetchCommand w s = .done (.next (illegalCommand w s)) := by
  simp only [fetchCommand, decode, h]

theorem illegalCommand_idle (h : Idle s) (w : Word) : illegalCommand w s = raiseP fBadcmd (info24 w) s := by
  simp [illegalCommand, h.1, h.2]

theorem illegalCommand_busy (hrun : s.p.halt = false) (hbusy : s.p.busy = true) (w : Word) :
    illegalCommand w s = raiseP fOverrun (info24 w) s := by
  simp [illegalCommand, hrun, hbusy]

theorem illegalCommand_halted (h : s.p.halt = true) (w : Word) : illegalCommand w s = s := by
  simp [illegalCommand, h]

/-- A word with a reserved bit set, or with an opcode of no row, is rejected. -/
theorem decodeCommand_rejects (h : w.extractLsb' 8 24 ≠ 0 ∨ commandOpc w ∉ commandRows.map Prod.fst) :
    ∃ r, decodeCommand w = .error r := by
  cases hw : decodeCommand w with
  | error r => exact ⟨r, rfl⟩
  | ok i =>
    obtain ⟨hrow, hhigh⟩ := decodeCommand_row hw
    have hlisted : commandOpc w ∈ commandRows.map Prod.fst := List.mem_map_of_mem (f := Prod.fst) hrow
    exact (h.elim (· hhigh) (· hlisted)).elim

/-- With bits 31:8 clear, `word[23:0]` is the opcode. -/
theorem info24_of_high_zero (h : w.extractLsb' 8 24 = 0) : info24 w = (commandOpc w).zeroExtend 24 := by
  have hinfo : ∀ opc : BitVec 8, info24 (opc.zeroExtend 32) = opc.zeroExtend 24 := fun opc => by
    apply BitVec.eq_of_toNat_eq
    simp [info24]
  rw [← hinfo, ← eq_zeroExtend_commandOpc h]

/-- A busy domain overruns at the write, whatever the word decodes to (R228). -/
theorem fetchCommand_busy (hrun : s.p.halt = false) (hbusy : s.p.busy = true) (w : Word) :
    (fetchCommand w s).outcome = .next (raiseP fOverrun (info24 w) s) := by
  cases hw : decodeCommand w with
  | error r => rw [fetchCommand_error hw, Fetched.outcome, illegalCommand_busy hrun hbusy]
  | ok i =>
    obtain ⟨-, hhigh⟩ := decodeCommand_row hw
    have hopc : hostOpcode i = some (commandOpc w) := by
      rw [hostOpcode, encode_of_decodeCommand hw, commandOpc]
    rw [fetchCommand_ok hw, Fetched.outcome, exec_command_busy hopc hrun hbusy, info24_of_high_zero hhigh]

theorem step_writeCmd {rest : List Action} (h : s.env.sched = .hostP (.write .word 0 w) :: rest) :
    step s = (fetchCommand w { s with env.sched := rest }).outcome := by
  rw [step_eq_outcome, fetch_cons h, perform_writeCmd]

end CommandWrites

/-- Settles O4: the decoder rejects the word, and the idle domain faults on it. -/
theorem illegalCommandFaults : Obligations.IllegalCommandFaults := by
  intro s rest w hsched hidle hillegal
  obtain ⟨r, hr⟩ := decodeCommand_rejects hillegal
  rw [step_writeCmd hsched, fetchCommand_error hr, Fetched.outcome,
    illegalCommand_idle (s := { s with env.sched := rest }) hidle]
  rfl

/-- Settles O5: an illegal word and a listed one overrun alike (`fetchCommand_busy`). -/
theorem commandWhileBusyOverruns : Obligations.CommandWhileBusyOverruns := by
  intro s rest w hsched hrun hbusy
  rw [step_writeCmd hsched, fetchCommand_busy (s := { s with env.sched := rest }) hrun hbusy]
  rfl

/-! ## Faults raised before anything executes (R222, R231, R232) -/

section BeforeExecution

variable {s : State}

theorem aligned_eq_false {base : Word} (h : base.extractLsb' 0 2 ≠ 0) : aligned base = false :=
  beq_eq_false_iff_ne.mpr h

theorem bodyPpeLdpart_capacity (hcap : 512 < s.p.x1.toNat) :
    bodyPpeLdpart s = .raised (raiseP fCapacity (info24 s.p.x1) s) :=
  if_pos hcap

theorem bodyPpeLdpart_misaligned (hcap : s.p.x1.toNat ≤ 512) (hbase : s.p.x0.extractLsb' 0 2 ≠ 0) :
    bodyPpeLdpart s = .raised (raiseP fAlign (info24 s.p.x0) s) := by
  have hfits : ¬capacity < opCount s := not_lt.mpr hcap
  rw [bodyPpeLdpart, if_neg hfits, opBase, aligned_eq_false hbase]
  rfl

theorem bodyPpeLdbg_misaligned (hbase : s.p.x0.extractLsb' 0 2 ≠ 0) :
    bodyPpeLdbg s = .raised (raiseP fAlign (info24 s.p.x0) s) := by
  rw [bodyPpeLdbg, opBase, aligned_eq_false hbase]
  rfl

theorem gated_closed (opc : BitVec 8) (body : State → Result) (h : s.p.inflight = true) :
    gated opc body s = .raised (raiseP fGate (opc.zeroExtend 24) s) := by
  simp [gated, h]

/-- A gated command, accepted while a frame is in flight (42_fsh.md R168). -/
theorem command_gated_closed (opc : BitVec 8) (body : State → Result) (hidle : Idle s) (h : s.p.inflight = true) :
    command opc (gated opc body) s = .next (faultedCommand opc fGate (opc.zeroExtend 24) s) :=
  command_of_raised opc hidle (gated_closed (s := accept opc s) opc body h)

end BeforeExecution

/-- Settles O11: each check stands before any read in its pseudocode, and the check of the count before that of the
base. -/
theorem loadsCheckCapacityThenAlignment : Obligations.LoadsCheckCapacityThenAlignment := by
  intro s hidle
  refine ⟨fun hcap => ?capacity, fun hcap hbase => ?alignment, fun hbase => ?background⟩
  case capacity => exact command_of_raised 0x11 hidle (bodyPpeLdpart_capacity (s := accept 0x11 s) hcap)
  case alignment => exact command_of_raised 0x11 hidle (bodyPpeLdpart_misaligned (s := accept 0x11 s) hcap hbase)
  case background => exact command_of_raised 0x10 hidle (bodyPpeLdbg_misaligned (s := accept 0x10 s) hbase)

/-- Settles O16: the three commands are the gate around their pseudocode. -/
theorem gateFaultsWhileInFlight : Obligations.GateFaultsWhileInFlight := fun _ hidle hflight =>
  ⟨command_gated_closed 0x13 iterate hidle hflight, command_gated_closed 0x14 snapshot hidle hflight,
    command_gated_closed 0x20 sendOrWait hidle hflight⟩

/-! ## Halted domains (R230, R235, R237) -/

/-- The two differ at most in the registers that HOST writes past a halt (70_reset_and_hazards.md R262) and in the
synchroniser flops (42_fsh.md R162). -/
def Producer.SameButPorts (p q : Producer) : Prop :=
  q = { p with
    arg0 := q.arg0, arg1 := q.arg1, arg2 := q.arg2, cfg := q.cfg, timeout := q.timeout
    partIdx := q.partIdx, warnTimeout := q.warnTimeout
    p2cAckS1 := q.p2cAckS1, p2cAckS2 := q.p2cAckS2, c2pReqS1 := q.c2pReqS1, c2pReqS2 := q.c2pReqS2 }

/-- The two differ at most in the registers that HOST writes past a halt (70_reset_and_hazards.md R263) and in the
synchroniser flops (42_fsh.md R162). -/
def Consumer.SameButPorts (c d : Consumer) : Prop :=
  d = { c with
    cfg := d.cfg, oeUnit := d.oeUnit
    p2cReqS1 := d.p2cReqS1, p2cReqS2 := d.p2cReqS2, c2pAckS1 := d.c2pAckS1, c2pAckS2 := d.c2pAckS2 }

/-- What an act other than reset can have done to the halted domains of the state `b` it came in. -/
structure HaltFrame (b t : State) : Prop where
  producer : b.p.halt = true → b.p.SameButPorts t.p
  consumer : b.c.halt = true → b.c.SameButPorts t.c

section Halted

variable {s : State}

theorem Producer.SameButPorts.refl (p : Producer) : p.SameButPorts p := rfl

theorem Consumer.SameButPorts.refl (c : Consumer) : c.SameButPorts c := rfl

/-- An act of the producer domain: it is enough to see what it does while that domain is halted. -/
theorem haltFrame_of_pFrame {o : Host.Outcome State Fault Refusal} (hframe : NextMeets (ProducerFrame True s) o)
    (hhalted : s.p.halt = true → NextMeets (fun t => s.p.SameButPorts t.p) o) : NextMeets (HaltFrame s) o := by
  cases hframe with
  | next h =>
    exact .next ⟨fun hhalt => (nextMeets_next _).mp (hhalted hhalt), fun _ => h.consumer.symm ▸ .refl s.c⟩
  | fault f => exact .fault f

/-- An act of the consumer domain: it is enough to see what it does while that domain is halted. -/
theorem haltFrame_of_cFrame {o : Host.Outcome State Fault Refusal} (hframe : NextMeets (ConsumerFrame True s) o)
    (hhalted : s.c.halt = true → NextMeets (fun t => s.c.SameButPorts t.c) o) : NextMeets (HaltFrame s) o := by
  cases hframe with
  | next h =>
    exact .next ⟨fun _ => h.producer.symm ▸ .refl s.p, fun hhalt => (nextMeets_next _).mp (hhalted hhalt)⟩
  | fault f => exact .fault f

/-- An act that rests while the producer domain is halted. -/
theorem haltFrame_of_pRests {o : Host.Outcome State Fault Refusal} (hframe : NextMeets (ProducerFrame True s) o)
    (hrests : s.p.halt = true → o = .next s) : NextMeets (HaltFrame s) o :=
  haltFrame_of_pFrame hframe fun hhalt => hrests hhalt ▸ .next (.refl s.p)

/-- An act that rests while the consumer domain is halted. -/
theorem haltFrame_of_cRests {o : Host.Outcome State Fault Refusal} (hframe : NextMeets (ConsumerFrame True s) o)
    (hrests : s.c.halt = true → o = .next s) : NextMeets (HaltFrame s) o :=
  haltFrame_of_cFrame hframe fun hhalt => hrests hhalt ▸ .next (.refl s.c)

/-! ### The register ports -/

theorem fetchCommand_halted (h : s.p.halt = true) (w : Word) : (fetchCommand w s).outcome = .next s := by
  cases hw : decodeCommand w with
  | error r => rw [fetchCommand_error hw, Fetched.outcome, illegalCommand_halted h]
  | ok i => rw [fetchCommand_ok hw, Fetched.outcome, exec_producer_halted (isConsumerOp_of_decodeCommand hw) h]

theorem pAccessRead_p (size : AccessSize) (off : Word) (s : State) : (pAccessRead size off s).p = s.p := by
  obtain ⟨t, ht, v, hread⟩ := pAccessRead_frame size off s
  rw [hread, ht]

theorem cAccessRead_c (size : AccessSize) (off : Word) (s : State) : (cAccessRead size off s).c = s.c := by
  obtain ⟨t, ht, v, hread⟩ := cAccessRead_frame size off s
  rw [hread, ht]

/-- A write of the P port other than of `P_CMD` reaches its registers whether the domain is halted or not. -/
theorem pPortWrite_sameButPorts (off v : Word) (s : State) : s.p.SameButPorts (pPortWrite off v s).p := by
  unfold pPortWrite
  split
  case h_4 | h_5 | h_6 => split <;> rfl
  all_goals rfl

theorem pAccessWrite_sameButPorts (size : AccessSize) (off v : Word) (s : State) :
    s.p.SameButPorts (pAccessWrite size off v s).p := by
  unfold pAccessWrite
  split
  · exact pPortWrite_sameButPorts off v s
  · rfl

/-- `C_CTRL` is ignored while the domain is halted (R230). -/
theorem cPortWrite_sameButPorts (h : s.c.halt = true) (off v : Word) : s.c.SameButPorts (cPortWrite off v s).c := by
  unfold cPortWrite
  split
  case h_1 =>
    rw [if_neg (by simp [h])]
    rfl
  case h_2 | h_3 => split <;> rfl
  case h_4 => rfl

theorem cAccess_sameButPorts (h : s.c.halt = true) (access : BusAccess) :
    s.c.SameButPorts (cAccess access s).c := by
  cases access with
  | read size off => exact (cAccessRead_c size off s).symm ▸ .refl s.c
  | write size off v =>
    simp only [cAccess, cAccessWrite]
    split
    · exact cPortWrite_sameButPorts h off v
    · rfl

theorem haltFrame_fetchPAccess (access : BusAccess) (s : State) :
    NextMeets (HaltFrame s) (fetchPAccess access s).outcome := by
  have hrefl : ProducerFrame True s s := .refl True s
  cases access with
  | read size off =>
    exact haltFrame_of_pFrame (.next (pFrame_pAccessRead hrefl size off)) fun _ =>
      .next ((pAccessRead_p size off s).symm ▸ .refl s.p)
  | write size off v =>
    rw [fetchPAccess]
    split
    · exact haltFrame_of_pRests (pFrame_fetchCommand (fun _ _ => trivial) hrefl) fun h => fetchCommand_halted h v
    · exact haltFrame_of_pFrame (.next (pFrame_pAccessWrite hrefl size off v)) fun _ =>
        .next (pAccessWrite_sameButPorts size off v s)

/-! ### The agents -/

theorem dmaStep_halted (h : s.c.halt = true) : dmaStep s = .next s := by
  simp [dmaStep, h]

theorem shStep_halted (h : s.c.halt = true) : shStep s = .next s := by
  simp [shStep, h]

theorem rsStep_halted (h : s.c.halt = true) : rsStep s = s := by
  simp [rsStep, h]

/-! ### Every act -/

theorem haltFrame_perform {a : Action} (ha : a ≠ .reset) (s : State) :
    NextMeets (HaltFrame s) (perform a s).outcome := by
  have hp : ProducerFrame True s s := .refl True s
  have hc : ConsumerFrame True s s := .refl True s
  cases a with
  | hostP access => exact haltFrame_fetchPAccess access s
  | hostC access =>
    exact haltFrame_of_cFrame (.next (cFrame_cAccess hc access)) fun h => .next (cAccess_sameButPorts h access)
  | hostMem address value => exact .next ⟨fun _ => rfl, fun _ => rfl⟩
  | background x y value => exact .next ⟨fun _ => rfl, fun _ => rfl⟩
  | reset => exact absurd rfl ha
  | agentP =>
    exact haltFrame_of_pRests (pFrame_fetchProducer (fun _ _ _ => trivial) hp)
      (exec_producer_halted (isConsumerOp_decodeProducer _))
  | agentC =>
    exact haltFrame_of_cRests (cFrame_fetchConsumer (fun _ _ => trivial) hc)
      (exec_consumer_halted (isConsumerOp_decodeConsumer _))
  | agentDma => exact haltFrame_of_cRests (cFrame_dmaStep hc) dmaStep_halted
  | agentSh => exact haltFrame_of_cRests (cFrame_shStep hc) shStep_halted
  | agentRs => exact haltFrame_of_cRests (.next (cFrame_rsStep hc)) fun h => congrArg _ (rsStep_halted h)
  | syncP => exact .next ⟨fun _ => rfl, fun _ => rfl⟩
  | syncC => exact .next ⟨fun _ => rfl, fun _ => rfl⟩

end Halted

/-- Finding the next act writes the environment only. -/
theorem nextAction_domains (s : State) : (nextAction s).2.p = s.p ∧ (nextAction s).2.c = s.c :=
  ⟨(cFrame_nextAction (.refl True s)).producer, (pFrame_nextAction (.refl True s)).consumer⟩

/-- Settles O53: the act of the step is not a reset, and every other act keeps to `HaltFrame`. -/
theorem haltedDomainsStayHalted : Obligations.HaltedDomainsStayHalted := by
  intro s t ht hepoch
  obtain ⟨hproducer, hconsumer⟩ := nextAction_domains s
  have hact := haltFrame_perform (nextAction_ne_reset ht hepoch) (nextAction s).2
  have hframe : HaltFrame (nextAction s).2 t := (nextMeets_next t).mp (ht ▸ step_eq_outcome s ▸ hact)
  exact ⟨hproducer ▸ hframe.producer, hconsumer ▸ hframe.consumer⟩

end Sys2Proof.Machine
